-- ==== Sys2Proof/Word.lean ====
section
/-! DEFINITION. The block's value types: bytes, 32-bit words, operation selectors, text (00_scope.md R6). -/

namespace Sys2Proof

/-- `Byte`, an unsigned integer in 0..255 (R6; 92_eei_decisions.md D4). -/
abbrev Byte := BitVec 8

/-- `U32`, the unsigned 32-bit value of every header field (R6). -/
abbrev U32 := BitVec 32

/-- `Bytes`, a finite byte sequence; the head is index 0 and travels first on the wire (R6). -/
abbrev Bytes := List Byte

/-- The 4-bit operation selector OPSEL (30_encoding.md R91). -/
abbrev OpSel := BitVec 4

/-- A text operand as its character codes; only codes 0..127 have a byte (43_host_side.md R192). -/
abbrev Text := List Nat

end Sys2Proof
end

