-- ==== Sys2Proof/Config.lean ====
section
/-! DEFINITION. What an implementation and its host fix for the life of one block: the open
parameters of 00_scope.md R5 and the handler table of 43_host_side.md R190. They are plain data
that no step changes, so that a statement about every state is a statement for every value. The
block has no free value. -/

namespace Sys2Proof

structure Config where
  /-- BUF_MAX: none, or the most bytes BUF may hold (R5, 10_state.md R30). -/
  bufMax : Option Nat
  /-- MAX_PAYLOAD: none, or the negotiated maximum payload size (R5, 43_host_side.md R194). -/
  maxPayload : Option Nat
  /-- HANDLERS: command to handler number; the first entry for a command counts (R190; log 17). -/
  handlers : List (U32 × Nat)
  deriving DecidableEq, Repr

/-- The minimal design with nothing registered. DESIGN CHOICE (log 3): the spec chooses no default. -/
def Config.minimal : Config := ⟨none, none, []⟩

end Sys2Proof
end

