-- ==== Sys2Proof/Syntax.lean ====
section
/-! DEFINITION. The records of the block, its instructions (one constructor per row of
spec/opcode_table.json) and the two shapes in which an instruction reaches the decoder. -/

namespace Sys2Proof

/-- MessageHeader: six unconstrained 32-bit fields H0..H5 in wire order (10_state.md R21). -/
structure Header where
  command : U32
  arg0 : U32
  arg1 : U32
  dataLength : U32
  dataChecksum : U32
  magic : U32
  deriving DecidableEq, Repr

/-- Message: the four independent values; the other header fields are derived (10_state.md R22). -/
structure Message where
  command : U32
  arg0 : U32
  arg1 : U32
  payload : Bytes
  deriving DecidableEq, Repr

/-- The instructions. The seven HDR24 rows carry the header fields their row leaves open
(30_encoding.md R92); their payload stands in BUF after the header. The fifteen OP rows carry the
operands of 00_scope.md R9. -/
inductive Instr where
  /-- FRAME: any header that no named row matches. -/
  | frame (h : Header)
  /-- CNXN, connection-establish. -/
  | cnxn (arg0 arg1 dataLength dataChecksum : U32)
  /-- OPEN, stream-open. -/
  | opn (arg0 arg1 dataLength dataChecksum : U32)
  /-- OKAY, stream-okay/ack. -/
  | okay (arg0 arg1 dataLength dataChecksum : U32)
  /-- CLSE, stream-close. -/
  | clse (arg0 arg1 dataLength dataChecksum : U32)
  /-- WRTE, stream-write. -/
  | wrte (arg0 arg1 dataLength dataChecksum : U32)
  /-- SYNC, the sync marker, with no special treatment (R87). -/
  | sync (arg0 arg1 dataLength dataChecksum : U32)
  /-- SR.RESET (R165). -/
  | srReset
  /-- SR.FEED (R160). -/
  | srFeed (chunk : Bytes)
  /-- HDR.ENC (R110). -/
  | hdrEnc (h : Header)
  /-- HDR.DEC (R111). -/
  | hdrDec (b : Bytes)
  /-- CSUM (R130). -/
  | csum (payload : Bytes)
  /-- MAGIC (R131). -/
  | magic (command : U32)
  /-- MSG.NEW (R132). -/
  | msgNew (command arg0 arg1 : U32) (payload : Bytes)
  /-- MSG.ENC (R133). -/
  | msgEnc (m : Message)
  /-- MSG.DEC (R134). -/
  | msgDec (b : Bytes)
  /-- SR.STATUS (R166). -/
  | srStatus
  /-- SR.BUFLEN (R167). -/
  | srBuflen
  /-- DISPATCH (R191). -/
  | dispatch (m : Message)
  /-- BUILD_CONNECT (R192). -/
  | buildConnect (version maxPayload : U32) (identity : Text)
  /-- BUILD_COMMAND (R193). -/
  | buildCommand (command arg0 arg1 : U32) (text : Text)
  /-- SEND (R194). -/
  | send (m : Message)
  deriving DecidableEq, Repr

/-- The operand port of an operation: six 32-bit words, a byte sequence and a text. Each operation
reads the slots it needs and no other. DESIGN CHOICE (log 8): the spec gives operands no encoding. -/
structure Operands where
  w0 : U32
  w1 : U32
  w2 : U32
  w3 : U32
  w4 : U32
  w5 : U32
  bytes : Bytes
  text : Text
  deriving DecidableEq, Repr

/-- What the decoder is given: the bytes at the frame boundary (R81), or an operation selector with
the operand port (R91). -/
inductive Packet where
  | wire (b : Bytes)
  | command (sel : OpSel) (args : Operands)
  deriving DecidableEq, Repr

/-- Why the decoder gives no instruction. -/
inductive Reject where
  /-- Fewer than 24 bytes: an incomplete encoding, not an illegal one (30_encoding.md R88). -/
  | needMoreData
  /-- OPSEL 1111 (30_encoding.md R91). -/
  | unassignedOpsel
  deriving DecidableEq, Repr

/-- What the decoder answers: an instruction, or a rejection by name. -/
inductive Decoded where
  | instr (i : Instr)
  | rejected (r : Reject)
  deriving DecidableEq, Repr

end Sys2Proof
end

