-- ==== Sys2Proof/Machine/State.lean ====
section
/-! DEFINITION. Everything the spec gives the machine, as plain data (10_state.md), the outcomes of
its operations (60_exceptions.md R210), and the state at creation. -/

namespace Sys2Proof.Machine

/-- The two cause bits of CorruptMessage (41_message_codec.md R134). -/
structure Cause where
  magicBad : Bool
  csumBad : Bool
  deriving DecidableEq, Repr

/-- How an SR.FEED ends (42_stream_reassembler.md R160). -/
inductive FeedOutcome where
  | needMoreData
  | corruptMessage (c : Cause)
  | bufferOverflow
  deriving DecidableEq, Repr

/-- What an operation answers: the tagged values of 00_scope.md R7 and 60_exceptions.md R210. -/
inductive Result where
  /-- Ok with no value: SR.RESET, SEND, DISPATCH to a registered handler. -/
  | done
  /-- Ok with bytes: HDR.ENC, MSG.ENC. -/
  | bytes (b : Bytes)
  /-- Ok of HDR.DEC. -/
  | header (h : Header) (rest : Bytes)
  /-- Ok with a U32: CSUM, MAGIC, SR.STATUS. -/
  | word (v : U32)
  /-- Ok of SR.BUFLEN. -/
  | length (n : Nat)
  /-- Ok with a message: MSG.NEW, BUILD_CONNECT, BUILD_COMMAND, and the message a frame emits. -/
  | message (m : Message)
  /-- Ok of MSG.DEC. -/
  | decoded (m : Message) (rest : Bytes)
  /-- The pair of SR.FEED: the messages in emission order, and the outcome. -/
  | fed (msgs : List Message) (outcome : FeedOutcome)
  /-- NeedMoreData, a control value (R211). -/
  | needMoreData
  /-- CorruptMessage (R212). -/
  | corruptMessage (c : Cause)
  /-- BufferOverflow (R213). -/
  | bufferOverflow
  /-- UnknownCommand: a dispatch miss, not an error (R214; log 23). -/
  | unknownCommand
  /-- OversizedPayload (R214, 43_host_side.md R194). -/
  | oversizedPayload
  /-- PayloadTooLong (41_message_codec.md R132). -/
  | payloadTooLong
  /-- A text with a character outside 0..127: no message is made (43_host_side.md R192; log 9). -/
  | textRefused
  deriving DecidableEq, Repr

/-- An error that SR.FEED records in STATUS (60_exceptions.md R219). -/
inductive BlockError where
  | corrupt (c : Cause)
  | overflow
  deriving DecidableEq, Repr

/-- The phase of the reassembler (10_state.md R26). -/
inductive Phase where
  | waitHeader
  | waitPayload
  | badFrame
  | complete
  deriving DecidableEq, Repr

/-- A handler of the dispatch table: a registered one by number, or DEFAULT (43_host_side.md R190). -/
inductive Handler where
  | registered (id : Nat)
  | default
  deriving DecidableEq, Repr

/-- One handler invocation (43_host_side.md R191). -/
structure Call where
  handler : Handler
  message : Message
  deriving DecidableEq, Repr

/-- What the host may ask for (00_scope.md R8; log 1). -/
inductive Request where
  /-- The host issues one operation with its operands. -/
  | op (sel : OpSel) (args : Operands)
  /-- The transport delivers a chunk and the owner runs its receive path (43_host_side.md R195). -/
  | arrival (chunk : Bytes)
  /-- The frame at the frame boundary, offset 0 of BUF, is run as an instruction (log 2). -/
  | boundary
  deriving DecidableEq, Repr

/-- One FRAMER with its host side. -/
structure State where
  /-- BUF, the stream buffer, oldest byte first (10_state.md R24). -/
  buf : Bytes
  /-- STATUS.CORRUPT (10_state.md R28). -/
  corrupt : Bool
  /-- STATUS.OVERFLOW (10_state.md R28). -/
  overflow : Bool
  /-- ACC, the checksum accumulator (10_state.md R27). -/
  acc : U32
  /-- BUF_MAX, MAX_PAYLOAD and the handler table (10_state.md R30, 43_host_side.md R190). -/
  config : Config
  /-- TX, the bytes written to the transport (20_memory.md R50). -/
  tx : Bytes
  /-- The handler invocations made, oldest first (43_host_side.md R195). -/
  calls : List Call
  /-- What the operations so far answered, oldest first (60_exceptions.md R217; log 5). -/
  results : List Result
  /-- What the host has asked for and the block has not run, oldest first (log 1). -/
  pending : List Request
  deriving DecidableEq, Repr

/-- The block raises no fault: every outcome of the spec is the result of its operation, and the
machine goes on (60_exceptions.md R210, R211, R217; log 26). -/
inductive Fault where
  deriving DecidableEq, Repr

/-- Why a step gives no next state. -/
inductive Refusal where
  /-- Raised by an arm of `exec` whose instruction has no meaning yet. Safe: the model stops. -/
  | notModelled (mnemonic : String)
  /-- Raised by `step` on OPSEL 1111, "refused, no operation, no state change" (30_encoding.md R91,
  93_implementation_defined.md U6). Safe: the model stops where the block rejects the request. -/
  | unassignedOpsel
  deriving DecidableEq, Repr

/-- An instance as it is created with a configuration, and nothing asked of it (10_state.md R34). -/
def State.create (c : Config) : State where
  buf := []
  corrupt := false
  overflow := false
  acc := 0
  config := c
  tx := []
  calls := []
  results := []
  pending := []

/-- The machine right after reset (10_state.md R34, 70_reset_and_hazards.md R241). -/
def State.reset : State := State.create Config.minimal

end Sys2Proof.Machine
end

