-- ==== Sys2Proof/Machine/Flags.lean ====
section
/-! DEFINITION. The status word and the two sticky flags (10_state.md R28, R31). -/

namespace Sys2Proof.Machine

/-- STATUS as a 32-bit word: bit 0 CORRUPT, bit 1 OVERFLOW, bits 31:2 read as 0 (R28). -/
def State.statusWord (s : State) : U32 :=
  (if s.corrupt then 1 else 0) ||| (if s.overflow then 2 else 0)

/-- STATUS.CORRUPT <- 1 (R160 step 4). -/
def State.setCorrupt (s : State) : State :=
  { s with corrupt := true }

/-- STATUS.OVERFLOW <- 1 (R160 step 2). -/
def State.setOverflow (s : State) : State :=
  { s with overflow := true }

/-- The outcome code of a result (60_exceptions.md R210); a refused text has none (log 9). -/
def Result.code : Result → Option Nat
  | .done => some 0
  | .bytes _ => some 0
  | .header _ _ => some 0
  | .word _ => some 0
  | .length _ => some 0
  | .message _ => some 0
  | .decoded _ _ => some 0
  | .fed _ .needMoreData => some 1
  | .fed _ (.corruptMessage _) => some 2
  | .fed _ .bufferOverflow => some 3
  | .needMoreData => some 1
  | .corruptMessage _ => some 2
  | .bufferOverflow => some 3
  | .unknownCommand => some 4
  | .oversizedPayload => some 5
  | .payloadTooLong => some 6
  | .textRefused => none

end Sys2Proof.Machine
end

