-- ==== Sys2Proof/Machine/Operands.lean ====
section
/-! DEFINITION. The operand forms: the payload after a header, text as bytes, reads of BUF. -/

namespace Sys2Proof.Machine

/-- The `data_length` payload bytes after a header and what follows them; none when fewer are
present. The comparison is in Nat and cannot wrap (41_message_codec.md R134 steps 2 and 3; D26). -/
def takePayload (h : Header) (after : Bytes) : Option (Bytes × Bytes) :=
  if after.length < h.dataLength.toNat then none
  else some (after.take h.dataLength.toNat, after.drop h.dataLength.toNat)

/-- `bytes_of` with the trailing NUL of a text payload: one byte per character with a code in
0..127, none when another character occurs (43_host_side.md R192, R193). -/
def textPayload (t : Text) : Option Bytes :=
  if t.all (· < 128) then some (t.map (BitVec.ofNat 8) ++ [0]) else none

/-- One byte of BUF; none at an offset that does not exist (20_memory.md R50). -/
def State.readByte (s : State) (off : Nat) : Option Byte :=
  s.buf[off]?

/-- `MemRead(off, n)`: the bytes off..off+n-1 of BUF (00_scope.md R7). -/
def State.memRead (s : State) (off n : Nat) : Bytes :=
  (s.buf.drop off).take n

/-- BUF as (offset, byte) cells, offsets from 0 (20_memory.md R50; log 11). -/
def Memory.cells (b : Bytes) : List Host.Cell :=
  (List.range b.length).zip b

/-- The canonical form of the cells: the offsets are 0, 1, 2, ... with none missing or repeated. -/
def Memory.wf (m : List Host.Cell) : Bool :=
  m.map Prod.fst == List.range m.length

end Sys2Proof.Machine
end

