-- ==== Sys2Proof/Decode.lean ====
section
/-! DEFINITION. Byte order, the wire header (30_encoding.md R81, R82), the rows of the opcode table
(R85, R91, R92), the decoder, and after it the encoder. -/

namespace Sys2Proof

/-! ### Byte order (00_scope.md R7, 20_memory.md R51) -/

/-- `le32`: the four bytes of a field, least significant first (R7). -/
def le32 (v : U32) : Bytes :=
  [v.extractLsb' 0 8, v.extractLsb' 8 8, v.extractLsb' 16 8, v.extractLsb' 24 8]

/-- `rd32`: the field at an offset, least significant byte first (R7). Used only where four bytes
are present (log 27). -/
def rd32 (s : Bytes) (off : Nat) : U32 :=
  s.getD (off + 3) 0 ++ s.getD (off + 2) 0 ++ s.getD (off + 1) 0 ++ s.getD off 0

/-- `pack4`: a four-character mnemonic as a command value, first character lowest (R7, R84). -/
def pack4 (c0 c1 c2 c3 : Byte) : U32 :=
  rd32 [c0, c1, c2, c3] 0

/-- HEADER_BYTES (00_scope.md R5). -/
abbrev headerBytes : Nat := 24

/-! ### The wire header -/

/-- The 24 bytes of a header: six little-endian fields in order (R81, R110). -/
def encodeHeader (h : Header) : Bytes :=
  le32 h.command ++ le32 h.arg0 ++ le32 h.arg1 ++ le32 h.dataLength ++ le32 h.dataChecksum ++
    le32 h.magic

/-- The six fields of the header at the front of a byte sequence (R82, R111); at least 24 bytes. -/
def readHeader (b : Bytes) : Header where
  command := rd32 b 0
  arg0 := rd32 b 4
  arg1 := rd32 b 8
  dataLength := rd32 b 12
  dataChecksum := rd32 b 16
  magic := rd32 b 20

/-! ### The well-known command identifiers (R85; log 13) -/

/-- One named HDR24 row: the command and the magic it fixes. -/
structure KnownRow where
  command : U32
  magic : U32
  deriving DecidableEq, Repr

def cnxnRow : KnownRow := ⟨0x4e584e43, 0xb1a7b1bc⟩
def openRow : KnownRow := ⟨0x4e45504f, 0xb1baafb0⟩
def okayRow : KnownRow := ⟨0x59414b4f, 0xa6beb4b0⟩
def clseRow : KnownRow := ⟨0x45534c43, 0xbaacb3bc⟩
def wrteRow : KnownRow := ⟨0x45545257, 0xbaabada8⟩
def syncRow : KnownRow := ⟨0x434e5953, 0xbcb1a6ac⟩

/-- A header selects a named row when the row's fixed bits are its own (R92). -/
def KnownRow.selects (r : KnownRow) (h : Header) : Bool :=
  h.command == r.command && h.magic == r.magic

/-- The header of a named row with its open fields filled in. -/
def KnownRow.header (r : KnownRow) (arg0 arg1 dataLength dataChecksum : U32) : Header :=
  ⟨r.command, arg0, arg1, dataLength, dataChecksum, r.magic⟩

/-- The row of a header: the named row that selects it, else the generic FRAME (R92; log 12). -/
def classify (h : Header) : Instr :=
  if cnxnRow.selects h then .cnxn h.arg0 h.arg1 h.dataLength h.dataChecksum
  else if openRow.selects h then .opn h.arg0 h.arg1 h.dataLength h.dataChecksum
  else if okayRow.selects h then .okay h.arg0 h.arg1 h.dataLength h.dataChecksum
  else if clseRow.selects h then .clse h.arg0 h.arg1 h.dataLength h.dataChecksum
  else if wrteRow.selects h then .wrte h.arg0 h.arg1 h.dataLength h.dataChecksum
  else if syncRow.selects h then .sync h.arg0 h.arg1 h.dataLength h.dataChecksum
  else .frame h

/-! ### The decoder -/

/-- A frame's instruction, from its first 24 bytes alone (R83). -/
def decodeWire (b : Bytes) : Decoded :=
  if b.length < headerBytes then .rejected .needMoreData else .instr (classify (readHeader b))

/-- The header operand: words 0 to 5 in wire order (log 8). -/
def Operands.header (a : Operands) : Header :=
  ⟨a.w0, a.w1, a.w2, a.w3, a.w4, a.w5⟩

/-- The message operand: words 0 to 2 and the byte sequence (log 8). -/
def Operands.message (a : Operands) : Message :=
  ⟨a.w0, a.w1, a.w2, a.bytes⟩

/-- An operation by its selector (R91). -/
def decodeCommand (sel : OpSel) (a : Operands) : Decoded :=
  match sel.toNat with
  | 0 => .instr .srReset
  | 1 => .instr (.srFeed a.bytes)
  | 2 => .instr (.hdrEnc a.header)
  | 3 => .instr (.hdrDec a.bytes)
  | 4 => .instr (.csum a.bytes)
  | 5 => .instr (.magic a.w0)
  | 6 => .instr (.msgNew a.w0 a.w1 a.w2 a.bytes)
  | 7 => .instr (.msgEnc a.message)
  | 8 => .instr (.msgDec a.bytes)
  | 9 => .instr .srStatus
  | 10 => .instr .srBuflen
  | 11 => .instr (.dispatch a.message)
  | 12 => .instr (.buildConnect a.w0 a.w1 a.text)
  | 13 => .instr (.buildCommand a.w0 a.w1 a.w2 a.text)
  | 14 => .instr (.send a.message)
  | _ => .rejected .unassignedOpsel

/-- The decoder: total, and a rejection carries its name. -/
def decode : Packet → Decoded
  | .wire b => decodeWire b
  | .command sel a => decodeCommand sel a

/-! ### The encoder -/

/-- The operand port with every slot zero or empty. -/
def Operands.zero : Operands := ⟨0, 0, 0, 0, 0, 0, [], []⟩

/-- The operand port holding a header. -/
def Operands.ofHeader (h : Header) : Operands :=
  ⟨h.command, h.arg0, h.arg1, h.dataLength, h.dataChecksum, h.magic, [], []⟩

/-- The operand port holding a byte sequence. -/
def Operands.ofBytes (b : Bytes) : Operands :=
  { Operands.zero with bytes := b }

/-- The operand port holding a message. -/
def Operands.ofMessage (m : Message) : Operands :=
  { Operands.zero with w0 := m.command, w1 := m.arg0, w2 := m.arg1, bytes := m.payload }

/-- The header an HDR24 instruction stands for; none for an operation. -/
def Instr.wireHeader : Instr → Option Header
  | .frame h => some h
  | .cnxn a0 a1 len ck => some (cnxnRow.header a0 a1 len ck)
  | .opn a0 a1 len ck => some (openRow.header a0 a1 len ck)
  | .okay a0 a1 len ck => some (okayRow.header a0 a1 len ck)
  | .clse a0 a1 len ck => some (clseRow.header a0 a1 len ck)
  | .wrte a0 a1 len ck => some (wrteRow.header a0 a1 len ck)
  | .sync a0 a1 len ck => some (syncRow.header a0 a1 len ck)
  | .srReset => none
  | .srFeed _ => none
  | .hdrEnc _ => none
  | .hdrDec _ => none
  | .csum _ => none
  | .magic _ => none
  | .msgNew _ _ _ _ => none
  | .msgEnc _ => none
  | .msgDec _ => none
  | .srStatus => none
  | .srBuflen => none
  | .dispatch _ => none
  | .buildConnect _ _ _ => none
  | .buildCommand _ _ _ _ => none
  | .send _ => none

/-- The encoding of an instruction: a frame's 24 header bytes (R81), or an operation's selector
(R91) and its operands. -/
def encode : Instr → Packet
  | .frame h => .wire (encodeHeader h)
  | .cnxn a0 a1 len ck => .wire (encodeHeader (cnxnRow.header a0 a1 len ck))
  | .opn a0 a1 len ck => .wire (encodeHeader (openRow.header a0 a1 len ck))
  | .okay a0 a1 len ck => .wire (encodeHeader (okayRow.header a0 a1 len ck))
  | .clse a0 a1 len ck => .wire (encodeHeader (clseRow.header a0 a1 len ck))
  | .wrte a0 a1 len ck => .wire (encodeHeader (wrteRow.header a0 a1 len ck))
  | .sync a0 a1 len ck => .wire (encodeHeader (syncRow.header a0 a1 len ck))
  | .srReset => .command 0b0000 .zero
  | .srFeed chunk => .command 0b0001 (.ofBytes chunk)
  | .hdrEnc h => .command 0b0010 (.ofHeader h)
  | .hdrDec b => .command 0b0011 (.ofBytes b)
  | .csum p => .command 0b0100 (.ofBytes p)
  | .magic c => .command 0b0101 { Operands.zero with w0 := c }
  | .msgNew c a0 a1 p => .command 0b0110 (.ofMessage ⟨c, a0, a1, p⟩)
  | .msgEnc m => .command 0b0111 (.ofMessage m)
  | .msgDec b => .command 0b1000 (.ofBytes b)
  | .srStatus => .command 0b1001 .zero
  | .srBuflen => .command 0b1010 .zero
  | .dispatch m => .command 0b1011 (.ofMessage m)
  | .buildConnect v n s => .command 0b1100 { Operands.zero with w0 := v, w1 := n, text := s }
  | .buildCommand c a0 a1 s =>
    .command 0b1101 { Operands.zero with w0 := c, w1 := a0, w2 := a1, text := s }
  | .send m => .command 0b1110 (.ofMessage m)

/-! ### The opcode table's numbering -/

/-- The 24 header bytes of a 192-bit number: header bit 0 is the least significant bit of the byte
at offset 0 (R81). -/
def wordBytes (w : Nat) : Bytes :=
  (List.range headerBytes).map fun k => BitVec.ofNat 8 (w / 2 ^ (8 * k))

/-- The packet of a table word: an HDR24 row has 192 bits, an OP row its 4-bit selector in one byte
with every operand zero. -/
def tablePacket (nbits w : Nat) : Option Packet :=
  if nbits = 192 then some (.wire (wordBytes w))
  else if nbits ≤ 8 ∧ w < 16 then some (.command (BitVec.ofNat 4 w) Operands.zero)
  else none

/-- The instruction the decoder reads from a word numbered as spec/opcode_table.json numbers it. -/
def decodeTableWord (nbits w : Nat) : Option Instr :=
  match tablePacket nbits w with
  | none => none
  | some p =>
    match decode p with
    | .instr i => some i
    | .rejected _ => none

end Sys2Proof
end

