-- ==== Sys2Proof/WellFormed.lean ====
section
/-! DEFINITION. Which instruction terms stand for an instruction of the block. -/

namespace Sys2Proof

/-- LEN_LIMIT: a payload is encodable when its length is below 2^32 (00_scope.md R5). -/
abbrev lenLimit : Nat := 2 ^ 32

/-- A Message has a payload shorter than 2^32 bytes (41_message_codec.md R132, R133). -/
def Message.wellFormed (m : Message) : Bool :=
  m.payload.length < lenLimit

/-- FRAME stands only for a header that no named row selects (30_encoding.md R92; log 12), and a
message operand is a Message. Every other operand value is legal. -/
def Instr.wellFormed : Instr → Bool
  | .frame h => classify h = .frame h
  | .cnxn _ _ _ _ => true
  | .opn _ _ _ _ => true
  | .okay _ _ _ _ => true
  | .clse _ _ _ _ => true
  | .wrte _ _ _ _ => true
  | .sync _ _ _ _ => true
  | .srReset => true
  | .srFeed _ => true
  | .hdrEnc _ => true
  | .hdrDec _ => true
  | .csum _ => true
  | .magic _ => true
  | .msgNew _ _ _ _ => true
  | .msgEnc m => m.wellFormed
  | .msgDec _ => true
  | .srStatus => true
  | .srBuflen => true
  | .dispatch m => m.wellFormed
  | .buildConnect _ _ _ => true
  | .buildCommand _ _ _ _ => true
  | .send m => m.wellFormed

end Sys2Proof
end

