-- ==== Sys2Proof/Machine/Ops.lean ====
section
/-! DEFINITION. The named operations every meaning is built from: the two integrity functions, the
header and message codecs, BUF's two mutations, the decode loop, reporting an outcome, taking an
error and returning from one. -/

namespace Sys2Proof.Machine

/-! ### Integrity functions (41_message_codec.md R130, R131) -/

/-- One accumulator step: ACC <- (ACC + zext_32(b)) mod 2^32 (R130). -/
def accStep (acc : U32) (b : Byte) : U32 :=
  acc + b.setWidth 32

/-- `CSUM`, the accumulator after the bytes of a payload, started at 0 (R130). -/
def csum (p : Bytes) : U32 :=
  p.foldl accStep 0

/-- `MAGIC`: the command XOR MAGIC_MASK (R131). -/
def magicOf (c : U32) : U32 :=
  c ^^^ 0xFFFFFFFF

/-! ### Header Codec (40_header_codec.md R110, R111) -/

/-- `HDR.ENC` (R110). -/
def hdrEnc (h : Header) : Bytes :=
  encodeHeader h

/-- `HDR.DEC`: none is NeedMoreData (R111). -/
def hdrDec (b : Bytes) : Option (Header × Bytes) :=
  if b.length < headerBytes then none else some (readHeader b, b.drop headerBytes)

/-! ### Message Codec (41_message_codec.md R132 to R134) -/

/-- `header_of`: the four independent values with the three derived ones (R132). -/
def headerOf (m : Message) : Header where
  command := m.command
  arg0 := m.arg0
  arg1 := m.arg1
  dataLength := BitVec.ofNat 32 m.payload.length
  dataChecksum := csum m.payload
  magic := magicOf m.command

/-- `MSG.ENC` (R133). -/
def msgEnc (m : Message) : Bytes :=
  hdrEnc (headerOf m) ++ m.payload

/-- What a decode attempt gives (R134). -/
inductive DecodeResult where
  | ok (m : Message) (rest : Bytes)
  | needMoreData
  | corruptMessage (c : Cause)
  deriving DecidableEq, Repr

/-- Steps 4 to 6 of R134: both comparisons are made on a header and its whole payload. -/
def judge (h : Header) (payload rest : Bytes) : DecodeResult :=
  let c : Cause := ⟨h.magic != magicOf h.command, h.dataChecksum != csum payload⟩
  if c.magicBad || c.csumBad then .corruptMessage c
  else .ok ⟨h.command, h.arg0, h.arg1, payload⟩ rest

/-- Steps 2 to 6 of R134 on a header and the bytes after it. -/
def decodeBody (h : Header) (after : Bytes) : DecodeResult :=
  match takePayload h after with
  | none => .needMoreData
  | some (payload, rest) => judge h payload rest

/-- `MSG.DEC` (R134). -/
def msgDec (b : Bytes) : DecodeResult :=
  match hdrDec b with
  | none => .needMoreData
  | some (h, after) => decodeBody h after

/-- ACC after a decode attempt: the payload's checksum where one was computed, else as it was
(10_state.md R27; log 4). -/
def accAfterBody (acc : U32) (h : Header) (after : Bytes) : U32 :=
  match takePayload h after with
  | none => acc
  | some (payload, _) => csum payload

/-- ACC after `MSG.DEC` (log 4). -/
def accAfterDec (acc : U32) (b : Bytes) : U32 :=
  match hdrDec b with
  | none => acc
  | some (h, after) => accAfterBody acc h after

/-- `phase(BUF)` (10_state.md R26). -/
def phase (b : Bytes) : Phase :=
  if b.length < headerBytes then .waitHeader
  else if b.length - headerBytes < (rd32 b 12).toNat then .waitPayload
  else
    match msgDec b with
    | .ok _ _ => .complete
    | .needMoreData => .waitPayload
    | .corruptMessage _ => .badFrame

/-! ### BUF (20_memory.md R54, R55) -/

/-- `BufAppend` (R54). -/
def State.bufAppend (s : State) (chunk : Bytes) : State :=
  { s with buf := s.buf ++ chunk }

/-- `BufDrop`: used only where n bytes are present (R55). -/
def State.bufDrop (s : State) (n : Nat) : State :=
  { s with buf := s.buf.drop n }

/-- A limit of the configuration is exceeded; `none` is no limit (R160 step 2, R194). -/
def exceeds (limit : Option Nat) (n : Nat) : Bool :=
  match limit with
  | none => false
  | some k => k < n

/-! ### Outcomes -/

/-- An operation ends with a result, delivered to its caller before the next operation starts
(60_exceptions.md R217). -/
def State.report (s : State) (r : Result) : State :=
  { s with results := s.results ++ [r] }

/-- Taking an error, the block's one exception entry: the sticky flag records it, and BUF keeps the
failing frame and every byte after it (60_exceptions.md R219). -/
def State.takeError (s : State) (e : BlockError) : State :=
  match e with
  | .corrupt _ => s.setCorrupt
  | .overflow => s.setOverflow

/-- The return from an error, and the block's only reset (60_exceptions.md R220,
42_stream_reassembler.md R165); the configuration and the host's side stay (log 24). -/
def State.clear (s : State) : State :=
  { s with buf := [], corrupt := false, overflow := false, acc := 0 }

/-! ### The decode loop (42_stream_reassembler.md R160 step 4, R168) -/

/-- What the loop leaves: the messages in order, BUF, ACC, and how it stopped. -/
structure Drained where
  msgs : List Message
  buf : Bytes
  acc : U32
  outcome : FeedOutcome
  deriving DecidableEq, Repr

/-- The loop with a bound on its decode attempts. -/
def drainLoop : Nat → Bytes → U32 → Drained
  | 0, buf, acc => ⟨[], buf, acc, .needMoreData⟩
  | n + 1, buf, acc =>
    match msgDec buf with
    | .ok m rest =>
      let d := drainLoop n rest (accAfterDec acc buf)
      ⟨m :: d.msgs, d.buf, d.acc, d.outcome⟩
    | .needMoreData => ⟨[], buf, accAfterDec acc buf, .needMoreData⟩
    | .corruptMessage c => ⟨[], buf, accAfterDec acc buf, .corruptMessage c⟩

/-- The loop, with the bound that R168 proves to be enough. -/
def drain (buf : Bytes) (acc : U32) : Drained :=
  drainLoop (buf.length / headerBytes + 1) buf acc

/-- The flag writes of an SR.FEED that ended with an outcome (R160, R219). -/
def State.noteOutcome (s : State) (o : FeedOutcome) : State :=
  match o with
  | .needMoreData => s
  | .corruptMessage c => s.takeError (.corrupt c)
  | .bufferOverflow => s.takeError .overflow

/-- Steps 3 and 4 of SR.FEED: append, then the loop (R160). -/
def State.appendAndDrain (s : State) (chunk : Bytes) : State :=
  let d := drain (s.bufAppend chunk).buf s.acc
  (({ s with buf := d.buf, acc := d.acc }).noteOutcome d.outcome).report (.fed d.msgs d.outcome)

/-- SR.FEED's four steps (R160). -/
def State.feed (s : State) (chunk : Bytes) : State :=
  if s.overflow then s.report (.fed [] .bufferOverflow)
  else if exceeds s.config.bufMax (s.buf.length + chunk.length) then
    (s.takeError .overflow).report (.fed [] .bufferOverflow)
  else s.appendAndDrain chunk

/-- One pass of the loop on the frame at offset 0 of BUF, whose header is `h`: MSG.DEC on BUF, then
the action of the phase table (R134, R161; log 2). An instance that has overflowed decodes no more
(R164; log 16). -/
def State.runFrame (s : State) (h : Header) : State :=
  if s.overflow then s.report .bufferOverflow
  else if s.buf.length < headerBytes then s.report .needMoreData
  else
    let after := s.buf.drop headerBytes
    let s' : State := { s with acc := accAfterBody s.acc h after }
    match decodeBody h after with
    | .needMoreData => s'.report .needMoreData
    | .ok m _ => (s'.bufDrop (headerBytes + h.dataLength.toNat)).report (.message m)
    | .corruptMessage c => (s'.takeError (.corrupt c)).report (.corruptMessage c)

/-- A frame boundary with no whole header behind it: NeedMoreData, as `runFrame` (R88). -/
def State.runIncomplete (s : State) : State :=
  if s.overflow then s.report .bufferOverflow else s.report .needMoreData

/-! ### Messages and the host side (41_message_codec.md R132, 43_host_side.md) -/

/-- MSG.NEW's construction (R132). -/
def State.newMessage (s : State) (m : Message) : State :=
  if m.wellFormed then ({ s with acc := csum m.payload }).report (.message m)
  else s.report .payloadTooLong

/-- A text-bearing message: MSG.NEW on the text and one NUL (R192, R193). -/
def State.newTextMessage (s : State) (command arg0 arg1 : U32) (text : Text) : State :=
  match textPayload text with
  | none => s.report .textRefused
  | some p => s.newMessage ⟨command, arg0, arg1, p⟩

/-- The handler a command selects (R190, R191). -/
def handlerFor (c : Config) (command : U32) : Handler :=
  match c.handlers.lookup command with
  | some id => .registered id
  | none => .default

/-- DISPATCH's result: UnknownCommand on a miss (60_exceptions.md R210; log 23). -/
def dispatchResult : Handler → Result
  | .registered _ => .done
  | .default => .unknownCommand

end Sys2Proof.Machine
end

