-- ==== Sys2Proof/Machine/Frames.lean ====
section
/-! DEFINITION. The HDR24 rows: a received frame at the frame boundary (30_encoding.md R92,
41_message_codec.md R134, 42_stream_reassembler.md R161; log 2). -/

namespace Sys2Proof.Machine

/-- FRAME: a frame of any header. -/
def execFrame (h : Header) (s : State) : Host.Outcome State Fault Refusal :=
  .next (s.runFrame h)

/-- CNXN (R85). -/
def execCnxn (arg0 arg1 dataLength dataChecksum : U32) (s : State) :
    Host.Outcome State Fault Refusal :=
  .next (s.runFrame (cnxnRow.header arg0 arg1 dataLength dataChecksum))

/-- OPEN (R85). -/
def execOpn (arg0 arg1 dataLength dataChecksum : U32) (s : State) :
    Host.Outcome State Fault Refusal :=
  .next (s.runFrame (openRow.header arg0 arg1 dataLength dataChecksum))

/-- OKAY (R85). -/
def execOkay (arg0 arg1 dataLength dataChecksum : U32) (s : State) :
    Host.Outcome State Fault Refusal :=
  .next (s.runFrame (okayRow.header arg0 arg1 dataLength dataChecksum))

/-- CLSE (R85). -/
def execClse (arg0 arg1 dataLength dataChecksum : U32) (s : State) :
    Host.Outcome State Fault Refusal :=
  .next (s.runFrame (clseRow.header arg0 arg1 dataLength dataChecksum))

/-- WRTE (R85). -/
def execWrte (arg0 arg1 dataLength dataChecksum : U32) (s : State) :
    Host.Outcome State Fault Refusal :=
  .next (s.runFrame (wrteRow.header arg0 arg1 dataLength dataChecksum))

/-- SYNC: like any other frame (R87). -/
def execSync (arg0 arg1 dataLength dataChecksum : U32) (s : State) :
    Host.Outcome State Fault Refusal :=
  .next (s.runFrame (syncRow.header arg0 arg1 dataLength dataChecksum))

end Sys2Proof.Machine
end

