-- ==== Sys2Proof/Machine/HeaderCodec.lean ====
section
/-! DEFINITION. The Header Codec's operations (40_header_codec.md). -/

namespace Sys2Proof.Machine

/-- HDR.ENC (R110). -/
def execHdrEnc (h : Header) (s : State) : Host.Outcome State Fault Refusal :=
  .next (s.report (.bytes (hdrEnc h)))

/-- HDR.DEC (R111). -/
def execHdrDec (b : Bytes) (s : State) : Host.Outcome State Fault Refusal :=
  match hdrDec b with
  | none => .next (s.report .needMoreData)
  | some (h, rest) => .next (s.report (.header h rest))

end Sys2Proof.Machine
end

