-- ==== Sys2Proof/Machine/HostSide.lean ====
section
/-! DEFINITION. The host side: the Command Dispatcher and the Outbound Command Builder
(43_host_side.md). -/

namespace Sys2Proof.Machine

/-- DISPATCH: exactly one handler is called, once, with the message (R191). What the handler does is
the host's (log 6). -/
def execDispatch (m : Message) (s : State) : Host.Outcome State Fault Refusal :=
  let k := handlerFor s.config m.command
  .next (({ s with calls := s.calls ++ [Call.mk k m] }).report (dispatchResult k))

/-- BUILD_CONNECT (R192). -/
def execBuildConnect (version maxPayload : U32) (identity : Text) (s : State) :
    Host.Outcome State Fault Refusal :=
  .next (s.newTextMessage cnxnRow.command version maxPayload identity)

/-- BUILD_COMMAND (R193). -/
def execBuildCommand (command arg0 arg1 : U32) (text : Text) (s : State) :
    Host.Outcome State Fault Refusal :=
  .next (s.newTextMessage command arg0 arg1 text)

/-- SEND: the size check comes before any byte is written, and the frame is written whole (R194). -/
def execSend (m : Message) (s : State) : Host.Outcome State Fault Refusal :=
  if exceeds s.config.maxPayload m.payload.length then .next (s.report .oversizedPayload)
  else if m.wellFormed then
    .next (({ s with acc := csum m.payload, tx := s.tx ++ msgEnc m }).report .done)
  else .next (s.report .payloadTooLong)

end Sys2Proof.Machine
end

