-- ==== Sys2Proof/Machine/MessageCodec.lean ====
section
/-! DEFINITION. The Message Codec's operations (41_message_codec.md). -/

namespace Sys2Proof.Machine

/-- CSUM (R130): ACC holds the sum afterwards. -/
def execCsum (p : Bytes) (s : State) : Host.Outcome State Fault Refusal :=
  .next (({ s with acc := csum p }).report (.word (csum p)))

/-- MAGIC (R131). -/
def execMagic (c : U32) (s : State) : Host.Outcome State Fault Refusal :=
  .next (s.report (.word (magicOf c)))

/-- MSG.NEW (R132). -/
def execMsgNew (command arg0 arg1 : U32) (payload : Bytes) (s : State) :
    Host.Outcome State Fault Refusal :=
  .next (s.newMessage ⟨command, arg0, arg1, payload⟩)

/-- MSG.ENC (R133); a payload of 2^32 bytes or more is no Message and nothing is encoded
(93_implementation_defined.md U2; log 10). -/
def execMsgEnc (m : Message) (s : State) : Host.Outcome State Fault Refusal :=
  if m.wellFormed then .next (({ s with acc := csum m.payload }).report (.bytes (msgEnc m)))
  else .next (s.report .payloadTooLong)

/-- MSG.DEC (R134). -/
def execMsgDec (b : Bytes) (s : State) : Host.Outcome State Fault Refusal :=
  let s' : State := { s with acc := accAfterDec s.acc b }
  match msgDec b with
  | .ok m rest => .next (s'.report (.decoded m rest))
  | .needMoreData => .next (s'.report .needMoreData)
  | .corruptMessage c => .next (s'.report (.corruptMessage c))

end Sys2Proof.Machine
end

