-- ==== Sys2Proof/Machine/Reassembler.lean ====
section
/-! DEFINITION. The Stream Reassembler's operations (42_stream_reassembler.md). -/

namespace Sys2Proof.Machine

/-- SR.RESET (R165). -/
def execSrReset (s : State) : Host.Outcome State Fault Refusal :=
  .next (s.clear.report .done)

/-- SR.FEED (R160). -/
def execSrFeed (chunk : Bytes) (s : State) : Host.Outcome State Fault Refusal :=
  .next (s.feed chunk)

/-- SR.STATUS (R166). -/
def execSrStatus (s : State) : Host.Outcome State Fault Refusal :=
  .next (s.report (.word s.statusWord))

/-- SR.BUFLEN (R167). -/
def execSrBuflen (s : State) : Host.Outcome State Fault Refusal :=
  .next (s.report (.length s.buf.length))

end Sys2Proof.Machine
end

