-- ==== Sys2Proof/Machine/Dispatch.lean ====
section
/-! DEFINITION. One arm per instruction. -/

namespace Sys2Proof.Machine

def exec (i : Instr) (s : State) : Host.Outcome State Fault Refusal :=
  match i with
  | .frame h => Sys2Proof.Machine.execFrame h s
  | .cnxn a0 a1 len ck => Sys2Proof.Machine.execCnxn a0 a1 len ck s
  | .opn a0 a1 len ck => Sys2Proof.Machine.execOpn a0 a1 len ck s
  | .okay a0 a1 len ck => Sys2Proof.Machine.execOkay a0 a1 len ck s
  | .clse a0 a1 len ck => Sys2Proof.Machine.execClse a0 a1 len ck s
  | .wrte a0 a1 len ck => Sys2Proof.Machine.execWrte a0 a1 len ck s
  | .sync a0 a1 len ck => Sys2Proof.Machine.execSync a0 a1 len ck s
  | .srReset => Sys2Proof.Machine.execSrReset s
  | .srFeed chunk => Sys2Proof.Machine.execSrFeed chunk s
  | .hdrEnc h => Sys2Proof.Machine.execHdrEnc h s
  | .hdrDec b => Sys2Proof.Machine.execHdrDec b s
  | .csum p => Sys2Proof.Machine.execCsum p s
  | .magic c => Sys2Proof.Machine.execMagic c s
  | .msgNew c a0 a1 p => Sys2Proof.Machine.execMsgNew c a0 a1 p s
  | .msgEnc m => Sys2Proof.Machine.execMsgEnc m s
  | .msgDec b => Sys2Proof.Machine.execMsgDec b s
  | .srStatus => Sys2Proof.Machine.execSrStatus s
  | .srBuflen => Sys2Proof.Machine.execSrBuflen s
  | .dispatch m => Sys2Proof.Machine.execDispatch m s
  | .buildConnect v n t => Sys2Proof.Machine.execBuildConnect v n t s
  | .buildCommand c a0 a1 t => Sys2Proof.Machine.execBuildCommand c a0 a1 t s
  | .send m => Sys2Proof.Machine.execSend m s

end Sys2Proof.Machine
end

