-- ==== Sys2Proof/Machine/Fetch.lean ====
section
/-! DEFINITION. How a request of the host comes to the decoder, and what the owner does with the
messages of an arrival (00_scope.md R8, 43_host_side.md R195; logs 1, 2, 15). -/

namespace Sys2Proof.Machine

/-- What a request gives the decoder: its selector and operands, SR.FEED for an arrival, or the
bytes at the frame boundary. -/
def Request.packet (r : Request) (buf : Bytes) : Packet :=
  match r with
  | .op sel args => .command sel args
  | .arrival chunk => .command 0b0001 (.ofBytes chunk)
  | .boundary => .wire buf

/-- The owner's request to dispatch a message (R195). -/
def dispatchRequest (m : Message) : Request :=
  .op 0b1011 (.ofMessage m)

/-- The messages of a result. -/
def Result.messages : Result → List Message
  | .fed msgs _ => msgs
  | .done => []
  | .bytes _ => []
  | .header _ _ => []
  | .word _ => []
  | .length _ => []
  | .message _ => []
  | .decoded _ _ => []
  | .needMoreData => []
  | .corruptMessage _ => []
  | .bufferOverflow => []
  | .unknownCommand => []
  | .oversizedPayload => []
  | .payloadTooLong => []
  | .textRefused => []

/-- The owner dispatches each message of the last result, in order, before anything else (R195). -/
def State.scheduleDispatches (s : State) : State :=
  { s with
    pending := ((s.results.getLast?.map Result.messages).getD []).map dispatchRequest ++ s.pending }

/-- What follows a request that has run: after an arrival its messages are dispatched. -/
def State.settle (s : State) (r : Request) : State :=
  match r with
  | .op _ _ => s
  | .arrival _ => s.scheduleDispatches
  | .boundary => s

/-- A request whose packet the decoder rejects: an incomplete header is NeedMoreData (R88), an
unassigned selector is refused (R91). -/
def rejectRequest (r : Reject) (s : State) : Host.Outcome State Fault Refusal :=
  match r with
  | .needMoreData => .next s.runIncomplete
  | .unassignedOpsel => .refused .unassignedOpsel

/-- A table word placed where the next step fetches: a header at the frame boundary, or a selector
with zero operands as the next request. -/
def State.placeTableWord (s : State) (nbits w : Nat) : State :=
  if nbits = 192 then { s with buf := wordBytes w, pending := .boundary :: s.pending }
  else { s with pending := .op (BitVec.ofNat 4 w) Operands.zero :: s.pending }

end Sys2Proof.Machine
end

