-- ==== Sys2Proof/Machine/Step.lean ====
section
/-! DEFINITION. One step: the oldest request of the host is run whole (00_scope.md R8). -/

namespace Sys2Proof.Machine

/-- What the step adds after `exec`. -/
def afterExec (r : Request) : Host.Outcome State Fault Refusal → Host.Outcome State Fault Refusal
  | .next t => .next (t.settle r)
  | .fault f => .fault f
  | .refused q => .refused q

/-- With no request nothing happens: the block has no step of its own (R8; log 19). -/
def step (s : State) : Host.Outcome State Fault Refusal :=
  match s.pending with
  | [] => .next s
  | r :: rest =>
    match decode (r.packet s.buf) with
    | .instr i => afterExec r (exec i { s with pending := rest })
    | .rejected e => rejectRequest e { s with pending := rest }

/-- The state with a table word as the next instruction (log 21). -/
def State.withFetchWord (s : State) (nbits w : Nat) : State :=
  s.placeTableWord nbits w

end Sys2Proof.Machine
end

