-- ==== Sys2Proof/Safety.lean ====
section
/-! DEFINITION. What holds of a block at rest, between two operations. -/

namespace Sys2Proof.Machine

/-- BUF never holds more than BUF_MAX bytes (20_memory.md R64). -/
def State.withinBufMax (s : State) : Prop :=
  ∀ n, s.config.bufMax = some n → s.buf.length ≤ n

/-- No whole valid frame waits in BUF, and CORRUPT is 1 exactly when the frame at the head of BUF is
a whole corrupt one (10_state.md R26, R28). -/
def State.atRest (s : State) : Prop :=
  phase s.buf ≠ .complete ∧ (s.corrupt = true ↔ phase s.buf = .badFrame)

/-- The messages the block has made or emitted. -/
def Result.made : Result → List Message
  | .message m => [m]
  | .decoded m _ => [m]
  | .fed msgs _ => msgs
  | .done => []
  | .bytes _ => []
  | .header _ _ => []
  | .word _ => []
  | .length _ => []
  | .needMoreData => []
  | .corruptMessage _ => []
  | .bufferOverflow => []
  | .unknownCommand => []
  | .oversizedPayload => []
  | .payloadTooLong => []
  | .textRefused => []

/-- Every message the block has made is a Message: its length fits in 32 bits (R132). -/
def State.messagesValid (s : State) : Prop :=
  ∀ r ∈ s.results, ∀ m ∈ r.made, m.payload.length < 2 ^ 32

/-- The outcome of an SR.FEED's result. -/
def Result.feedOutcome : Result → Option FeedOutcome
  | .fed _ o => some o
  | .message _ => none
  | .decoded _ _ => none
  | .done => none
  | .bytes _ => none
  | .header _ _ => none
  | .word _ => none
  | .length _ => none
  | .needMoreData => none
  | .corruptMessage _ => none
  | .bufferOverflow => none
  | .unknownCommand => none
  | .oversizedPayload => none
  | .payloadTooLong => none
  | .textRefused => none

/-- The chunks fed one after another, each by its own SR.FEED (42_stream_reassembler.md R162). -/
def runFeeds : List Bytes → State → Option State
  | [], s => some s
  | c :: cs, s =>
    match exec (.srFeed c) s with
    | .next t => runFeeds cs t
    | .fault _ => none
    | .refused _ => none

/-- A number of steps, one after another. -/
def runSteps : Nat → State → Option State
  | 0, s => some s
  | n + 1, s =>
    match step s with
    | .next t => runSteps n t
    | .fault _ => none
    | .refused _ => none

/-- The messages emitted between two states of one run, in order: those of the newer results. -/
def emittedSince (s t : State) : List Message :=
  (t.results.drop s.results.length).flatMap Result.messages

/-- The outcome of the latest operation, where it was an SR.FEED. -/
def State.lastOutcome (s : State) : Option FeedOutcome :=
  s.results.getLast?.bind Result.feedOutcome

/-- sum32 of a payload, as the sum of its byte values (00_scope.md R7). -/
def byteSum (p : Bytes) : Nat :=
  (p.map BitVec.toNat).sum

end Sys2Proof.Machine
end

