-- ==== Sys2Proof/Certificates/Slice0/Obligations.lean ====
section
/-! DEFINITION. The statements for the provers. -/

open Sys2Proof Sys2Proof.Machine

/-! ### Encoding -/

/-- Every well-formed instruction is read back from its encoding (R81, R82, R91, R92). -/
def Obligations.DecodeEncodeRoundTrip : Prop :=
  ∀ i : Instr, i.wellFormed = true → decode (encode i) = .instr i

/-- A named HDR24 row is selected exactly by the 192-bit words with `h AND mask == match`, and FRAME
by the others (R92; that a named row is preferred to FRAME is the model's choice, log 12). -/
def Obligations.NamedRowsMatchTheirBits : Prop :=
  ∀ w : Nat, w < 2 ^ 192 →
    let fixedBits := w &&& 0xffffffff00000000000000000000000000000000ffffffff
    ((∃ a b c d, decodeTableWord 192 w = some (.cnxn a b c d)) ↔
      fixedBits = 0xb1a7b1bc000000000000000000000000000000004e584e43) ∧
    ((∃ a b c d, decodeTableWord 192 w = some (.opn a b c d)) ↔
      fixedBits = 0xb1baafb0000000000000000000000000000000004e45504f) ∧
    ((∃ a b c d, decodeTableWord 192 w = some (.okay a b c d)) ↔
      fixedBits = 0xa6beb4b00000000000000000000000000000000059414b4f) ∧
    ((∃ a b c d, decodeTableWord 192 w = some (.clse a b c d)) ↔
      fixedBits = 0xbaacb3bc0000000000000000000000000000000045534c43) ∧
    ((∃ a b c d, decodeTableWord 192 w = some (.wrte a b c d)) ↔
      fixedBits = 0xbaabada80000000000000000000000000000000045545257) ∧
    ((∃ a b c d, decodeTableWord 192 w = some (.sync a b c d)) ↔
      fixedBits = 0xbcb1a6ac00000000000000000000000000000000434e5953) ∧
    ((∃ h, decodeTableWord 192 w = some (.frame h)) ↔
      fixedBits ∉ ([0xb1a7b1bc000000000000000000000000000000004e584e43,
        0xb1baafb0000000000000000000000000000000004e45504f,
        0xa6beb4b00000000000000000000000000000000059414b4f,
        0xbaacb3bc0000000000000000000000000000000045534c43,
        0xbaabada80000000000000000000000000000000045545257,
        0xbcb1a6ac00000000000000000000000000000000434e5953] : List Nat))

/-- A few words written out: headers from the encodings of R81 and R85, selectors from R91. That the
operands of a selector's table word are zero or empty is the model's choice (log 8: the spec gives
operands no encoding), and the values of R85 but CNXN's are the spec's general knowledge (log 13). -/
def Obligations.SampleWordsDecode : Prop :=
  decodeTableWord 192 0xb1a7b1bc000002320000000700001000010000004e584e43 =
      some (.cnxn 0x01000000 4096 7 0x232) ∧
    decodeTableWord 192 0xeeddccbb000000060000000300000001aabbccdd11223344 =
      some (.frame ⟨0x11223344, 0xaabbccdd, 1, 3, 6, 0xeeddccbb⟩) ∧
    decodeTableWord 8 0b0001 = some (.srFeed []) ∧
    decodeTableWord 8 0b0101 = some (.magic 0) ∧
    decodeTableWord 8 0b1001 = some .srStatus ∧
    decodeTableWord 8 0b1110 = some (.send ⟨0, 0, 0, []⟩) ∧
    decodeTableWord 8 0b1111 = none

/-- OPSEL selects the fifteen operations of R91's table, whatever the operands, and on 1111 no
operation runs. Which slot of the operand port an operand stands in is the model's choice (log 8: the
spec gives operands no encoding), and that the step answers the refusal of 1111 with no next state is
the model's reading of "refused, no operation, no state change" (log 7). -/
def Obligations.SelectorsChooseOperations : Prop :=
  ∀ a : Operands,
    decode (.command 0b0000 a) = .instr .srReset ∧
    decode (.command 0b0001 a) = .instr (.srFeed a.bytes) ∧
    decode (.command 0b0010 a) = .instr (.hdrEnc ⟨a.w0, a.w1, a.w2, a.w3, a.w4, a.w5⟩) ∧
    decode (.command 0b0011 a) = .instr (.hdrDec a.bytes) ∧
    decode (.command 0b0100 a) = .instr (.csum a.bytes) ∧
    decode (.command 0b0101 a) = .instr (.magic a.w0) ∧
    decode (.command 0b0110 a) = .instr (.msgNew a.w0 a.w1 a.w2 a.bytes) ∧
    decode (.command 0b0111 a) = .instr (.msgEnc ⟨a.w0, a.w1, a.w2, a.bytes⟩) ∧
    decode (.command 0b1000 a) = .instr (.msgDec a.bytes) ∧
    decode (.command 0b1001 a) = .instr .srStatus ∧
    decode (.command 0b1010 a) = .instr .srBuflen ∧
    decode (.command 0b1011 a) = .instr (.dispatch ⟨a.w0, a.w1, a.w2, a.bytes⟩) ∧
    decode (.command 0b1100 a) = .instr (.buildConnect a.w0 a.w1 a.text) ∧
    decode (.command 0b1101 a) = .instr (.buildCommand a.w0 a.w1 a.w2 a.text) ∧
    decode (.command 0b1110 a) = .instr (.send ⟨a.w0, a.w1, a.w2, a.bytes⟩) ∧
    ∀ (s : State) (rest : List Request),
      step { s with pending := .op 0b1111 a :: rest } = .refused .unassignedOpsel

/-! ### Header Codec -/

/-- R110: HDR.ENC answers 24 bytes, field `i`'s byte `k` at offset `4 i + k` least significant
first, for every header, and writes no state. -/
def Obligations.HdrEncIsLittleEndian : Prop :=
  ∀ (h : Header) (s : State), ∃ b : Bytes,
    exec (.hdrEnc h) s = .next { s with results := s.results ++ [.bytes b] } ∧
    b.length = 24 ∧
    ∀ k, k < 4 →
      b[k]? = some (h.command.extractLsb' (8 * k) 8) ∧
      b[4 + k]? = some (h.arg0.extractLsb' (8 * k) 8) ∧
      b[8 + k]? = some (h.arg1.extractLsb' (8 * k) 8) ∧
      b[12 + k]? = some (h.dataLength.extractLsb' (8 * k) 8) ∧
      b[16 + k]? = some (h.dataChecksum.extractLsb' (8 * k) 8) ∧
      b[20 + k]? = some (h.magic.extractLsb' (8 * k) 8)

/-- R111: HDR.DEC answers NeedMoreData below 24 bytes, else the six fields as the sums of R7 and the
bytes after the header, whatever the field values, and writes no state. -/
def Obligations.HdrDecReadsSixFields : Prop :=
  ∀ (b : Bytes) (s : State),
    let field (off : Nat) : Nat :=
      (b.getD off 0).toNat + 2 ^ 8 * (b.getD (off + 1) 0).toNat +
        2 ^ 16 * (b.getD (off + 2) 0).toNat + 2 ^ 24 * (b.getD (off + 3) 0).toNat
    (b.length < 24 →
      exec (.hdrDec b) s = .next { s with results := s.results ++ [.needMoreData] }) ∧
    (24 ≤ b.length → ∃ h : Header,
      exec (.hdrDec b) s = .next { s with results := s.results ++ [.header h (b.drop 24)] } ∧
      h.command.toNat = field 0 ∧ h.arg0.toNat = field 4 ∧ h.arg1.toNat = field 8 ∧
      h.dataLength.toNat = field 12 ∧ h.dataChecksum.toNat = field 16 ∧ h.magic.toNat = field 20)

/-- R112: HDR.DEC of HDR.ENC's bytes is the header with nothing left over, and HDR.ENC of a decoded
header with the remainder is the decoded byte sequence. -/
def Obligations.HeaderRoundTrips : Prop :=
  (∀ (h : Header) (s t : State) (b : Bytes),
    exec (.hdrEnc h) s = .next { s with results := s.results ++ [.bytes b] } →
    exec (.hdrDec b) t = .next { t with results := t.results ++ [.header h []] }) ∧
  (∀ (b rest : Bytes) (h : Header) (s : State), 24 ≤ b.length →
    exec (.hdrDec b) s = .next { s with results := s.results ++ [.header h rest] } →
    exec (.hdrEnc h) s = .next { s with results := s.results ++ [.bytes (b.take 24)] } ∧
      b.take 24 ++ rest = b)

/-! ### Message Codec -/

/-- R130: CSUM answers the sum of the byte values modulo 2^32 and leaves it in ACC, for every payload;
the order of the bytes does not matter, and the sum of a concatenation is the sum of the sums. -/
def Obligations.CsumIsSumOfByteValues : Prop :=
  (∀ (p : Bytes) (s : State),
    exec (.csum p) s =
      .next { s with
        acc := BitVec.ofNat 32 (byteSum p)
        results := s.results ++ [.word (BitVec.ofNat 32 (byteSum p))] }) ∧
  (∀ (p q : Bytes) (s : State), p.Perm q → exec (.csum p) s = exec (.csum q) s) ∧
  (∀ (p q : Bytes) (s : State) (v w : U32),
    exec (.csum p) s = .next { s with acc := v, results := s.results ++ [.word v] } →
    exec (.csum q) s = .next { s with acc := w, results := s.results ++ [.word w] } →
    exec (.csum (p ++ q)) s = .next { s with acc := v + w, results := s.results ++ [.word (v + w)] })

/-- R131: MAGIC inverts every bit, equals 2^32 - 1 - c, is its own inverse and has no fixed point. -/
def Obligations.MagicInvertsEveryBit : Prop :=
  ∀ (c : U32) (s : State), ∃ v : U32,
    exec (.magic c) s = .next { s with results := s.results ++ [.word v] } ∧
    v = c ^^^ 0xFFFFFFFF ∧
    (∀ k, k < 32 → v.getLsbD k = !c.getLsbD k) ∧
    v.toNat = 2 ^ 32 - 1 - c.toNat ∧
    c.toNat + v.toNat = 2 ^ 32 - 1 ∧
    c ^^^ v = 0xFFFFFFFF ∧
    v ≠ c ∧
    exec (.magic v) s = .next { s with results := s.results ++ [.word c] }

/-- R132: MSG.NEW makes the message of its four operands when the payload is shorter than 2^32 bytes,
and its derived header fields are the payload's length, the sum of its bytes and the complement of
the command; a longer payload gives PayloadTooLong and no message. ACC is left open. -/
def Obligations.MsgNewMakesValidMessage : Prop :=
  ∀ (c a0 a1 : U32) (p : Bytes) (s : State),
    (p.length < 2 ^ 32 →
      (∃ a, exec (.msgNew c a0 a1 p) s =
        .next { s with acc := a, results := s.results ++ [.message ⟨c, a0, a1, p⟩] }) ∧
      (headerOf ⟨c, a0, a1, p⟩).command = c ∧
      (headerOf ⟨c, a0, a1, p⟩).arg0 = a0 ∧
      (headerOf ⟨c, a0, a1, p⟩).arg1 = a1 ∧
      (headerOf ⟨c, a0, a1, p⟩).dataLength.toNat = p.length ∧
      (headerOf ⟨c, a0, a1, p⟩).dataChecksum.toNat = byteSum p % 2 ^ 32 ∧
      (headerOf ⟨c, a0, a1, p⟩).magic = c ^^^ 0xFFFFFFFF) ∧
    (2 ^ 32 ≤ p.length →
      exec (.msgNew c a0 a1 p) s = .next { s with results := s.results ++ [.payloadTooLong] })

/-- R133: MSG.ENC answers 24 + len(payload) bytes, the header with its derived fields and then the
payload unchanged. ACC is left open. -/
def Obligations.MsgEncWritesHeaderThenPayload : Prop :=
  ∀ (m : Message) (s : State), m.payload.length < 2 ^ 32 → ∃ (a : U32) (hd : Bytes),
    exec (.msgEnc m) s =
      .next { s with acc := a, results := s.results ++ [.bytes (hd ++ m.payload)] } ∧
    hd.length = 24 ∧
    exec (.hdrEnc ⟨m.command, m.arg0, m.arg1, BitVec.ofNat 32 m.payload.length,
        BitVec.ofNat 32 (byteSum m.payload), m.command ^^^ 0xFFFFFFFF⟩) s =
      .next { s with results := s.results ++ [.bytes hd] }

/-- A payload of 2^32 bytes or more is no Message: MSG.ENC, and SEND unless the payload exceeds
MAX_PAYLOAD (R194's own refusal), answer PayloadTooLong, nothing is encoded and nothing written. The
model's reading of 93_implementation_defined.md U2 (log 10). -/
def Obligations.OverlongMessageIsNotEncoded : Prop :=
  ∀ (m : Message) (s : State), 2 ^ 32 ≤ m.payload.length →
    exec (.msgEnc m) s = .next { s with results := s.results ++ [.payloadTooLong] } ∧
    ((∀ n, s.config.maxPayload = some n → m.payload.length ≤ n) →
      exec (.send m) s = .next { s with results := s.results ++ [.payloadTooLong] })

/-- R134, R135: the conditions of MSG.DEC in order: short header, short payload (compared without
wrapping), then both integrity checks at once, each with its own cause bit, else the four
independent values and the bytes after the frame. ACC is left open. -/
def Obligations.MsgDecChecksInOrder : Prop :=
  ∀ (b : Bytes) (s : State),
    let h := readHeader b
    let n := h.dataLength.toNat
    let p := (b.drop 24).take n
    let magicBad := h.magic ≠ h.command ^^^ 0xFFFFFFFF
    let csumBad := h.dataChecksum.toNat ≠ byteSum p % 2 ^ 32
    (b.length < 24 → ∃ a,
      exec (.msgDec b) s = .next { s with acc := a, results := s.results ++ [.needMoreData] }) ∧
    (24 ≤ b.length → b.length - 24 < n → ∃ a,
      exec (.msgDec b) s = .next { s with acc := a, results := s.results ++ [.needMoreData] }) ∧
    (24 ≤ b.length → n ≤ b.length - 24 → magicBad ∨ csumBad → ∃ a,
      exec (.msgDec b) s =
        .next { s with
          acc := a
          results := s.results ++ [.corruptMessage ⟨decide magicBad, decide csumBad⟩] }) ∧
    (24 ≤ b.length → n ≤ b.length - 24 → ¬magicBad → ¬csumBad → ∃ a,
      exec (.msgDec b) s =
        .next { s with
          acc := a
          results := s.results ++
            [.decoded ⟨h.command, h.arg0, h.arg1, p⟩ (b.drop (24 + n))] })

/-- R136: MSG.DEC of a frame gives its message and exactly the bytes after it, every proper front part
of a frame is NeedMoreData, and a decoded message with its remainder encodes to the bytes decoded. -/
def Obligations.MessageRoundTrips : Prop :=
  (∀ (m : Message) (t : Bytes) (s : State), m.payload.length < 2 ^ 32 → ∃ a,
    exec (.msgDec (msgEnc m ++ t)) s =
      .next { s with acc := a, results := s.results ++ [.decoded m t] }) ∧
  (∀ (m : Message) (x : Bytes) (s : State), m.payload.length < 2 ^ 32 → x <+: msgEnc m →
    x ≠ msgEnc m → ∃ a,
      exec (.msgDec x) s = .next { s with acc := a, results := s.results ++ [.needMoreData] }) ∧
  (∀ (b rest : Bytes) (m : Message) (s : State) (a : U32),
    exec (.msgDec b) s = .next { s with acc := a, results := s.results ++ [.decoded m rest] } →
    msgEnc m ++ rest = b ∧ m.payload.length < 2 ^ 32)

/-- Bytes that follow a decided frame change neither the verdict nor the message, and a byte sequence
that needs more data has no front part that does not (R162's prefix-stability). -/
def Obligations.MsgDecIsStableUnderMoreBytes : Prop :=
  (∀ (b t rest : Bytes) (m : Message) (s : State) (a : U32),
    exec (.msgDec b) s = .next { s with acc := a, results := s.results ++ [.decoded m rest] } →
    exec (.msgDec (b ++ t)) s =
      .next { s with acc := a, results := s.results ++ [.decoded m (rest ++ t)] }) ∧
  (∀ (b t : Bytes) (c : Cause) (s : State) (a : U32),
    exec (.msgDec b) s = .next { s with acc := a, results := s.results ++ [.corruptMessage c] } →
    exec (.msgDec (b ++ t)) s =
      .next { s with acc := a, results := s.results ++ [.corruptMessage c] }) ∧
  (∀ (b t : Bytes) (s : State) (a : U32),
    exec (.msgDec (b ++ t)) s =
      .next { s with acc := a, results := s.results ++ [.needMoreData] } →
    ∃ a', exec (.msgDec b) s = .next { s with acc := a', results := s.results ++ [.needMoreData] })

/-! ### Stream Reassembler -/

/-- R160: the four steps of SR.FEED. A latched overflow refuses the chunk; a chunk that would exceed
BUF_MAX is dropped whole and latches; else it is appended, and MSG.DEC of BUF decides: NeedMoreData
and CorruptMessage stop with BUF kept, and Ok removes the frame, puts its message in front of the
messages of the remaining loop (an SR.FEED of nothing on what remains) and ends as that does. ACC is
left open. -/
def Obligations.FeedFollowsItsFourSteps : Prop :=
  ∀ (s : State) (chunk : Bytes),
    (s.overflow = true →
      exec (.srFeed chunk) s =
        .next { s with results := s.results ++ [.fed [] .bufferOverflow] }) ∧
    (s.overflow = false →
      (∃ n, s.config.bufMax = some n ∧ s.buf.length + chunk.length > n) →
      exec (.srFeed chunk) s =
        .next { s with
          overflow := true, results := s.results ++ [.fed [] .bufferOverflow] }) ∧
    (s.overflow = false →
      (∀ n, s.config.bufMax = some n → s.buf.length + chunk.length ≤ n) →
      (msgDec (s.buf ++ chunk) = .needMoreData → ∃ a,
        exec (.srFeed chunk) s =
          .next { s with
            buf := s.buf ++ chunk, acc := a
            results := s.results ++ [.fed [] .needMoreData] }) ∧
      (∀ c, msgDec (s.buf ++ chunk) = .corruptMessage c → ∃ a,
        exec (.srFeed chunk) s =
          .next { s with
            buf := s.buf ++ chunk, corrupt := true, acc := a
            results := s.results ++ [.fed [] (.corruptMessage c)] }) ∧
      (∀ m rest, msgDec (s.buf ++ chunk) = .ok m rest → ∃ (a : U32) (t : State) (ms : List Message) (o : FeedOutcome),
        exec (.srFeed []) { s with buf := rest, acc := a } =
          .next { t with results := s.results ++ [.fed ms o] } ∧
        exec (.srFeed chunk) s = .next { t with results := s.results ++ [.fed (m :: ms) o] }))

/-- R164: once a chunk has been rejected, every later SR.FEED answers BufferOverflow with no message
and changes neither BUF nor STATUS, until SR.RESET clears the latch. -/
def Obligations.OverflowLatches : Prop :=
  (∀ (s : State) (chunk : Bytes) (n : Nat), s.overflow = false → s.config.bufMax = some n →
    n < s.buf.length + chunk.length → ∃ t,
      exec (.srFeed chunk) s = .next t ∧ t.overflow = true ∧ t.buf = s.buf ∧
      ∀ cs : List Bytes, ∃ u,
        runFeeds cs t = some u ∧ u.buf = s.buf ∧ u.overflow = true ∧ u.corrupt = s.corrupt ∧
        u.results = t.results ++ List.replicate cs.length (.fed [] .bufferOverflow)) ∧
  (∀ s : State, ∃ t, exec .srReset s = .next t ∧ t.overflow = false)

/-- R162: two cuttings of one byte sequence, fed to one instance with no operation rejected for
capacity, emit the same messages and end with the same BUF, the same CORRUPT and the same outcome;
with BUF_MAX = none and OVERFLOW = 0 no operation is rejected; and whole frames followed by a proper
front part of one more, cut in any way and fed to a new instance, give exactly the frames' messages
in order, the front part left in BUF, and NeedMoreData. -/
def Obligations.FragmentationDoesNotMatter : Prop :=
  (∀ (s t u : State) (cs ds : List Bytes), cs ≠ [] → ds ≠ [] → cs.flatten = ds.flatten →
    runFeeds cs s = some t → runFeeds ds s = some u → t.overflow = false → u.overflow = false →
    emittedSince s t = emittedSince s u ∧ t.buf = u.buf ∧ t.corrupt = u.corrupt ∧
      t.lastOutcome = u.lastOutcome) ∧
  (∀ (s : State) (cs : List Bytes), s.config.bufMax = none → s.overflow = false →
    ∃ t, runFeeds cs s = some t ∧ t.overflow = false) ∧
  (∀ (c : Config) (cs : List Bytes) (ms : List Message) (m : Message) (x : Bytes),
    c.bufMax = none → cs ≠ [] → (∀ k ∈ ms, k.payload.length < 2 ^ 32) →
    m.payload.length < 2 ^ 32 → x <+: msgEnc m → x ≠ msgEnc m →
    cs.flatten = (ms.map msgEnc).flatten ++ x →
    ∃ t, runFeeds cs (State.create c) = some t ∧ emittedSince (State.create c) t = ms ∧
      t.buf = x ∧ t.lastOutcome = some .needMoreData)

/-- R219, R62: an SR.FEED that is not rejected accounts for every byte: BUF and the chunk are the
frames of the emitted messages, in order, followed by the new BUF; whatever stopped it stands at
offset 0 of the new BUF. -/
def Obligations.FeedAccountsForEveryByte : Prop :=
  ∀ (s : State) (chunk : Bytes), s.overflow = false →
    (∀ n, s.config.bufMax = some n → s.buf.length + chunk.length ≤ n) →
    ∃ t ms o,
      exec (.srFeed chunk) s = .next t ∧
      t.results = s.results ++ [.fed ms o] ∧
      s.buf ++ chunk = (ms.map msgEnc).flatten ++ t.buf ∧
      ms.length ≤ (s.buf.length + chunk.length) / 24 ∧
      ((o = .needMoreData ∧ (phase t.buf = .waitHeader ∨ phase t.buf = .waitPayload) ∧
          t.corrupt = s.corrupt) ∨
        (∃ c, o = .corruptMessage c ∧ msgDec t.buf = .corruptMessage c ∧
          phase t.buf = .badFrame ∧ t.corrupt = true))

/-- R163: with a whole corrupt frame at the head of BUF every later SR.FEED that fits appends its
chunk, emits nothing and answers CorruptMessage with the same cause; and whatever chunks follow,
fitting or not, no message is emitted, no byte of BUF is skipped or discarded, and CORRUPT stays 1. -/
def Obligations.CorruptFrameSticks : Prop :=
  ∀ (s : State) (c : Cause), msgDec s.buf = .corruptMessage c →
    (∀ chunk : Bytes, s.overflow = false →
      (∀ n, s.config.bufMax = some n → s.buf.length + chunk.length ≤ n) →
      msgDec (s.buf ++ chunk) = .corruptMessage c ∧
      ∃ a, exec (.srFeed chunk) s =
        .next { s with
          buf := s.buf ++ chunk, corrupt := true, acc := a
          results := s.results ++ [.fed [] (.corruptMessage c)] }) ∧
    (∀ cs : List Bytes, ∃ t, runFeeds cs s = some t ∧ emittedSince s t = [] ∧ s.buf <+: t.buf ∧
      (s.corrupt = true → t.corrupt = true))

/-- An empty chunk fed to an instance at rest changes neither BUF nor STATUS and emits nothing
(R160 corner case (a)). -/
def Obligations.EmptyChunkChangesNothingAtRest : Prop :=
  ∀ s : State, s.atRest → s.withinBufMax → s.overflow = false → ∃ a o,
    exec (.srFeed []) s = .next { s with acc := a, results := s.results ++ [.fed [] o] } ∧
      (s.corrupt = false → o = .needMoreData) ∧
      (s.corrupt = true → ∃ c, o = .corruptMessage c ∧ msgDec s.buf = .corruptMessage c)

/-- The phase is a function of BUF: by length, by data_length at offset 12, and by MSG.DEC (R26). -/
def Obligations.PhaseFollowsBuf : Prop :=
  ∀ b : Bytes,
    (phase b = .waitHeader ↔ b.length < 24) ∧
    (phase b = .waitPayload ↔ 24 ≤ b.length ∧ b.length - 24 < (rd32 b 12).toNat) ∧
    (phase b = .badFrame ↔ ∃ c, msgDec b = .corruptMessage c) ∧
    (phase b = .complete ↔ ∃ m rest, msgDec b = .ok m rest)

/-- SR.RESET empties BUF and clears both flags and ACC, as R165 says, and the configuration stays; that
TX, the calls, the earlier results and the waiting requests stay as well, and that its answer is noted
in the results, is the model's reading (logs 5 and 24). -/
def Obligations.SrResetClears : Prop :=
  ∀ s : State,
    exec .srReset s =
      .next { s with
        buf := [], corrupt := false, overflow := false, acc := 0
        results := s.results ++ [.done] }

/-- R34: an instance is created with BUF empty, so that BUF_LEN is 0 and the phase WAIT_HEADER, both
flags and ACC zero and the configuration as chosen; SR.RESET leaves the configuration. -/
def Obligations.CreationStateIsResetState : Prop :=
  ∀ c : Config,
    (State.create c).buf = [] ∧ (State.create c).buf.length = 0 ∧
    phase (State.create c).buf = .waitHeader ∧
    (State.create c).corrupt = false ∧ (State.create c).overflow = false ∧
    (State.create c).acc = 0 ∧ (State.create c).config = c ∧
    State.reset = State.create State.reset.config ∧
    ∀ s : State, ∃ t, exec .srReset s = .next t ∧ t.config = s.config ∧
      t.buf = (State.create s.config).buf ∧ t.corrupt = (State.create s.config).corrupt ∧
      t.overflow = (State.create s.config).overflow ∧ t.acc = (State.create s.config).acc

/-- R166: SR.STATUS answers CORRUPT in bit 0, OVERFLOW in bit 1 and 0 in every other bit, and changes
nothing. -/
def Obligations.StatusShowsBothFlags : Prop :=
  ∀ s : State, ∃ v : U32,
    exec .srStatus s = .next { s with results := s.results ++ [.word v] } ∧
    v.getLsbD 0 = s.corrupt ∧ v.getLsbD 1 = s.overflow ∧ ∀ k, 2 ≤ k → v.getLsbD k = false

/-- R167: SR.BUFLEN answers len(BUF) and changes nothing. -/
def Obligations.BuflenShowsOccupancy : Prop :=
  ∀ s : State,
    exec .srBuflen s = .next { s with results := s.results ++ [.length s.buf.length] }

/-! ### Frames at the frame boundary (the model's stand-alone pass of the loop, log 2) -/

/-- FRAME, CNXN, OPEN, OKAY, CLSE, WRTE and SYNC at the frame boundary: by R134 and the phase table
of R161, an incomplete payload changes nothing, a valid frame is removed and its message emitted, a
corrupt one sets CORRUPT and stays. ACC is left open. -/
def Obligations.FramesRunAtTheBoundary : Prop :=
  ∀ (i : Instr) (h : Header) (s : State), i.wireHeader = some h → s.overflow = false →
    24 ≤ s.buf.length →
    let n := h.dataLength.toNat
    let p := (s.buf.drop 24).take n
    let magicBad := h.magic ≠ h.command ^^^ 0xFFFFFFFF
    let csumBad := h.dataChecksum.toNat ≠ byteSum p % 2 ^ 32
    (s.buf.length - 24 < n →
      exec i s = .next { s with results := s.results ++ [.needMoreData] }) ∧
    (n ≤ s.buf.length - 24 → ¬magicBad → ¬csumBad → ∃ a,
      exec i s =
        .next { s with
          buf := s.buf.drop (24 + n), acc := a
          results := s.results ++ [.message ⟨h.command, h.arg0, h.arg1, p⟩] }) ∧
    (n ≤ s.buf.length - 24 → magicBad ∨ csumBad → ∃ a,
      exec i s =
        .next { s with
          corrupt := true, acc := a
          results := s.results ++ [.corruptMessage ⟨decide magicBad, decide csumBad⟩] })

/-- A frame in an overflowed instance, or with no whole header in BUF, is not decoded: BufferOverflow
and NeedMoreData, nothing changed (the model's choice, logs 2 and 16). -/
def Obligations.FramesNotDecoded : Prop :=
  ∀ (i : Instr) (h : Header) (s : State), i.wireHeader = some h →
    (s.overflow = true →
      exec i s = .next { s with results := s.results ++ [.bufferOverflow] }) ∧
    (s.overflow = false → s.buf.length < 24 →
      exec i s = .next { s with results := s.results ++ [.needMoreData] })

/-- A frame of one of the six named rows never fails the magic check: its only corruption is the
checksum's. -/
def Obligations.NamedFramesNeverFailMagic : Prop :=
  ∀ (i : Instr) (s t : State) (c : Cause), i.wireHeader ≠ none → (∀ h, i ≠ .frame h) →
    exec i s = .next t → t.results = s.results ++ [.corruptMessage c] →
    c = ⟨false, true⟩

/-- Every command value is treated alike (R86, R87): a frame row does what FRAME does with the same
header; and two frame rows whose headers agree but for the command, and for a magic that is right in
both or wrong in both, leave the same state and give the same answer, but for the command of the
message that they emit. Running a row on its own is the model's choice (log 2). -/
def Obligations.CommandValueMakesNoDifference : Prop :=
  (∀ (i : Instr) (h : Header) (s : State), i.wireHeader = some h → exec i s = exec (.frame h) s) ∧
  (∀ (i j : Instr) (h k : Header) (s : State), i.wireHeader = some h → j.wireHeader = some k →
    k.arg0 = h.arg0 → k.arg1 = h.arg1 → k.dataLength = h.dataLength →
    k.dataChecksum = h.dataChecksum →
    (k.magic = k.command ^^^ 0xFFFFFFFF ↔ h.magic = h.command ^^^ 0xFFFFFFFF) →
    ∃ (t : State) (q r : Result),
      exec i s = .next { t with results := s.results ++ [q] } ∧
      exec j s = .next { t with results := s.results ++ [r] } ∧
      ((q = r ∧ q.made = []) ∨
        ∃ p : Bytes, q = .message ⟨h.command, h.arg0, h.arg1, p⟩ ∧
          r = .message ⟨k.command, h.arg0, h.arg1, p⟩))

/-! ### Host side -/

/-- R191: DISPATCH calls exactly one handler, once, with the message: the one registered for its
command, else the default; nothing else changes. What is noted of it in the results is left open
here (log 23). -/
def Obligations.DispatchCallsOneHandler : Prop :=
  ∀ (m : Message) (s : State),
    (∀ id, s.config.handlers.lookup m.command = some id → ∃ r,
      exec (.dispatch m) s =
        .next { s with
          calls := s.calls ++ [⟨.registered id, m⟩], results := s.results ++ [r] }) ∧
    ((∀ e ∈ s.config.handlers, e.1 ≠ m.command) → ∃ r,
      exec (.dispatch m) s =
        .next { s with calls := s.calls ++ [⟨.default, m⟩], results := s.results ++ [r] })

/-- The outcome codes 4, 5 and 6 over all instructions, as R210 lists them: 4 exactly for a DISPATCH
whose command has no registered handler, 5 exactly for a SEND over MAX_PAYLOAD, and 6 exactly for
MSG.NEW, BUILD_CONNECT and BUILD_COMMAND with a payload of 2^32 bytes or more, and, by the model's
choice (log 10), for MSG.ENC of such a payload and for SEND of one that MAX_PAYLOAD allows. A DISPATCH
that hits has code 0. That DISPATCH notes a result at all is log 23. -/
def Obligations.HostSideOutcomesHaveTheirCodes : Prop :=
  ∀ (i : Instr) (s t : State) (r : Result), exec i s = .next t → t.results = s.results ++ [r] →
    (r.code = some 4 ↔ ∃ m, i = .dispatch m ∧ ∀ e ∈ s.config.handlers, e.1 ≠ m.command) ∧
    (∀ m, i = .dispatch m → r.code = some 0 ∨ r.code = some 4) ∧
    (r.code = some 5 ↔
      ∃ m, i = .send m ∧ ∃ n, s.config.maxPayload = some n ∧ m.payload.length > n) ∧
    (r.code = some 6 ↔
      (∃ c a0 a1 p, i = .msgNew c a0 a1 p ∧ 2 ^ 32 ≤ p.length) ∨
      (∃ v n x, i = .buildConnect v n x ∧ (∀ ch ∈ x, ch < 128) ∧ 2 ^ 32 ≤ x.length + 1) ∨
      (∃ c a0 a1 x, i = .buildCommand c a0 a1 x ∧ (∀ ch ∈ x, ch < 128) ∧ 2 ^ 32 ≤ x.length + 1) ∨
      (∃ m, i = .msgEnc m ∧ 2 ^ 32 ≤ m.payload.length) ∨
      (∃ m, i = .send m ∧ 2 ^ 32 ≤ m.payload.length ∧
        ∀ n, s.config.maxPayload = some n → m.payload.length ≤ n))

/-- R192: BUILD_CONNECT makes the CNXN message with the version and size in arg0 and arg1 and the
identity's character codes with one NUL as payload; a text with a code above 127 makes no message;
too long a payload is PayloadTooLong. ACC is left open. -/
def Obligations.BuildConnectMakesHandshake : Prop :=
  ∀ (v n : U32) (t : Text) (s : State),
    ((∀ ch ∈ t, ch < 128) → t.length + 1 < 2 ^ 32 → ∃ a p,
      exec (.buildConnect v n t) s =
        .next { s with acc := a, results := s.results ++ [.message ⟨0x4e584e43, v, n, p⟩] } ∧
      p.map BitVec.toNat = t ++ [0]) ∧
    ((∀ ch ∈ t, ch < 128) → 2 ^ 32 ≤ t.length + 1 →
      exec (.buildConnect v n t) s = .next { s with results := s.results ++ [.payloadTooLong] }) ∧
    ((∃ ch ∈ t, 128 ≤ ch) → ∀ u, exec (.buildConnect v n t) s = .next u →
      ∀ r ∈ u.results.drop s.results.length, r.made = [])

/-- R193: BUILD_COMMAND makes the message of its command and arguments with the text's character
codes and one NUL as payload, so never an empty payload. ACC is left open. -/
def Obligations.BuildCommandMakesTextMessage : Prop :=
  ∀ (c a0 a1 : U32) (t : Text) (s : State),
    ((∀ ch ∈ t, ch < 128) → t.length + 1 < 2 ^ 32 → ∃ a p,
      exec (.buildCommand c a0 a1 t) s =
        .next { s with acc := a, results := s.results ++ [.message ⟨c, a0, a1, p⟩] } ∧
      p.map BitVec.toNat = t ++ [0] ∧ p ≠ []) ∧
    ((∀ ch ∈ t, ch < 128) → 2 ^ 32 ≤ t.length + 1 →
      exec (.buildCommand c a0 a1 t) s = .next { s with results := s.results ++ [.payloadTooLong] }) ∧
    ((∃ ch ∈ t, 128 ≤ ch) → ∀ u, exec (.buildCommand c a0 a1 t) s = .next u →
      ∀ r ∈ u.results.drop s.results.length, r.made = [])

/-- A text with a character code above 127 is refused by both builders and the machine goes on with
nothing else changed (92_eei_decisions.md D19; that a refused text ends no run is the model's
reading, log 9). -/
def Obligations.NonAsciiTextIsRefused : Prop :=
  ∀ (c a0 a1 : U32) (t : Text) (s : State), (∃ ch ∈ t, 128 ≤ ch) →
    exec (.buildConnect a0 a1 t) s = .next { s with results := s.results ++ [.textRefused] } ∧
    exec (.buildCommand c a0 a1 t) s = .next { s with results := s.results ++ [.textRefused] }

/-- R194: SEND writes MSG.ENC of the message whole at the end of TX, unless its payload exceeds
MAX_PAYLOAD: then OversizedPayload, and nothing is written. ACC is left open. -/
def Obligations.SendWritesWholeFrameOrNothing : Prop :=
  ∀ (m : Message) (s : State),
    ((∃ n, s.config.maxPayload = some n ∧ m.payload.length > n) →
      exec (.send m) s = .next { s with results := s.results ++ [.oversizedPayload] }) ∧
    ((∀ n, s.config.maxPayload = some n → m.payload.length ≤ n) → m.payload.length < 2 ^ 32 →
      ∃ a, exec (.send m) s =
        .next { s with acc := a, tx := s.tx ++ msgEnc m, results := s.results ++ [.done] })

/-! ### Whole-machine rules -/

/-- Every instruction completes, in every state: no meaning faults or refuses (R210, R217, R219). -/
def Obligations.EveryInstructionCompletes : Prop :=
  ∀ (i : Instr) (s : State), ∃ t r,
    exec i s = .next t ∧ t.results = s.results ++ [r] ∧ t.pending = s.pending

/-- A step stops for one reason only: the unassigned selector (R91). -/
def Obligations.StepStopsOnlyAtUnassignedSelector : Prop :=
  ∀ s : State,
    (∃ t, step s = .next t) ∨
      (step s = .refused .unassignedOpsel ∧ ∃ a rest, s.pending = .op 0b1111 a :: rest)

/-- R28's flags are sticky: no instruction but SR.RESET clears one; CORRUPT is set only by SR.FEED and
by a frame at the boundary (the model's pass of its loop, log 2), OVERFLOW only by SR.FEED. -/
def Obligations.StatusFlagsAreSticky : Prop :=
  ∀ (i : Instr) (s t : State), exec i s = .next t →
    (i ≠ .srReset → (s.corrupt = true → t.corrupt = true) ∧ (s.overflow = true → t.overflow = true)) ∧
    (s.corrupt = false → t.corrupt = true → (∃ c, i = .srFeed c) ∨ i.wireHeader ≠ none) ∧
    (s.overflow = false → t.overflow = true → ∃ c, i = .srFeed c)

/-- The codec, status and host operations change nothing of the block: BUF, CORRUPT, OVERFLOW stay;
only SR.FEED, SR.RESET and a frame at the boundary change BUF (R20, R24). -/
def Obligations.OnlyFeedResetAndFramesChangeTheBlock : Prop :=
  ∀ (i : Instr) (s t : State), exec i s = .next t → i.wireHeader = none → i ≠ .srReset →
    (∀ c, i ≠ .srFeed c) →
    t.buf = s.buf ∧ t.corrupt = s.corrupt ∧ t.overflow = s.overflow

/-- The configuration is fixed for the life of an instance: no step changes it (R20, R30). -/
def Obligations.ConfigurationNeverChanges : Prop :=
  ∀ s t : State, step s = .next t → t.config = s.config

/-- What was written to TX, what handlers were called and what was answered is never taken back: every
instruction adds exactly one answer after all earlier ones, TX grows only by SEND, by exactly one
frame, and the calls only by DISPATCH, by exactly one; and a step adds at most one answer. The three
lists are the model's record (logs 5 and 6). -/
def Obligations.HostStreamsOnlyGrow : Prop :=
  (∀ (i : Instr) (s t : State), exec i s = .next t →
    (∃ r, t.results = s.results ++ [r]) ∧
    s.tx <+: t.tx ∧ s.calls <+: t.calls ∧
    (t.tx ≠ s.tx → ∃ m, i = .send m ∧ t.tx = s.tx ++ msgEnc m) ∧
    (t.calls ≠ s.calls →
      ∃ m, i = .dispatch m ∧ t.calls = s.calls ++ [⟨handlerFor s.config m.command, m⟩])) ∧
  (∀ s t : State, step s = .next t →
    (t.results = s.results ∨ ∃ r, t.results = s.results ++ [r]) ∧
    s.tx <+: t.tx ∧ s.calls <+: t.calls)

/-! ### The step -/

/-- A step runs the decoded instruction: the oldest request is taken off the queue; its packet is the
operation's selector and operands, SR.FEED for an arrival, or the bytes of BUF from offset 0; `exec`
runs what the decoder reads from it; after an arrival the emitted messages are queued for DISPATCH in
order before every other request. The queue is the model's own (log 1). -/
def Obligations.StepRunsDecodedInstruction : Prop :=
  (∀ (s : State) (sel : OpSel) (a : Operands) (rest : List Request) (i : Instr),
    s.pending = .op sel a :: rest → decode (.command sel a) = .instr i →
    step s = exec i { s with pending := rest }) ∧
  (∀ (s : State) (rest : List Request) (i : Instr),
    s.pending = .boundary :: rest → decode (.wire s.buf) = .instr i →
    step s = exec i { s with pending := rest }) ∧
  (∀ (s : State) (chunk : Bytes) (rest : List Request),
    s.pending = .arrival chunk :: rest → ∃ t ms o,
      exec (.srFeed chunk) { s with pending := rest } = .next t ∧
      t.results = s.results ++ [.fed ms o] ∧
      step s = .next { t with pending := ms.map (fun m => .op 0b1011 (.ofMessage m)) ++ rest })

/-- With nothing asked of it the block does nothing (R8). -/
def Obligations.IdleBlockDoesNothing : Prop :=
  ∀ s : State, s.pending = [] → step s = .next s

/-- A frame boundary with fewer than 24 bytes behind it is NeedMoreData, not an error (R88; the
request is the model's, log 2). -/
def Obligations.IncompleteBoundaryNeedsMoreData : Prop :=
  ∀ (s : State) (rest : List Request), s.pending = .boundary :: rest → s.buf.length < 24 →
    s.overflow = false →
    step s = .next { s with pending := rest, results := s.results ++ [.needMoreData] }

/-- R195: an arrival is one SR.FEED and then one DISPATCH per emitted message, in list order, before
any later request; dispatching changes nothing of the block. -/
def Obligations.ArrivalDispatchesInOrder : Prop :=
  ∀ (s : State) (chunk : Bytes) (rest : List Request), s.pending = .arrival chunk :: rest →
    ∃ t ms o u,
      exec (.srFeed chunk) { s with pending := rest } = .next t ∧
      t.results = s.results ++ [.fed ms o] ∧
      runSteps (ms.length + 1) s = some u ∧
      u.calls = s.calls ++ ms.map (fun m => ⟨handlerFor s.config m.command, m⟩) ∧
      u.pending = rest ∧ u.buf = t.buf ∧ u.corrupt = t.corrupt ∧ u.overflow = t.overflow ∧
      u.tx = s.tx ∧ u.config = s.config

/-- A frame at the boundary of a block at rest changes neither BUF nor STATUS: only inside SR.FEED
does a pass of the loop find a frame to remove (R8, R26; log 2). -/
def Obligations.BoundaryOfRestingBlockIsInert : Prop :=
  ∀ (s t : State) (rest : List Request), s.atRest → s.pending = .boundary :: rest →
    step s = .next t → t.buf = s.buf ∧ t.corrupt = s.corrupt ∧ t.overflow = s.overflow

/-! ### Invariants -/

/-- With BUF_MAX = some n, len(BUF) <= n holds at all times: every step keeps it (R64). -/
def Obligations.BufMaxIsKept : Prop :=
  ∀ s t : State, s.withinBufMax → step s = .next t → t.withinBufMax

/-- Between operations no complete valid frame waits in BUF and CORRUPT is 1 exactly when a whole
corrupt frame heads it: every step keeps it (R26, R28). -/
def Obligations.RestIsKept : Prop :=
  ∀ s t : State, s.atRest → step s = .next t → t.atRest

/-- Every message the block makes, decodes or emits has a payload shorter than 2^32 bytes: every step
keeps it (R132, R134). -/
def Obligations.MessagesStayValid : Prop :=
  ∀ s t : State, s.messagesValid → step s = .next t → t.messagesValid

/-- The three invariants hold of a created instance, whatever its configuration, and at reset. -/
def Obligations.CreationMeetsInvariants : Prop :=
  (∀ c : Config, (State.create c).withinBufMax ∧ (State.create c).atRest ∧
    (State.create c).messagesValid) ∧
  State.reset.withinBufMax ∧ State.reset.atRest ∧ State.reset.messagesValid

/-! ### Reset, whole -/

/-- R165: SR.RESET leaves BUF empty, both flags and ACC 0 and the configuration as it was; and it is
the only instruction that clears a flag, or by which bytes leave BUF other than as decoded frames:
under every other one, BUF and the chunk it appends are the frames of some messages followed by the
new BUF. A frame row is taken with the header that stands in BUF, as every step does. -/
def Obligations.SrResetIsTheOnlyWayBack : Prop :=
  (∀ s : State, ∃ t, exec .srReset s = .next t ∧
    t.buf = [] ∧ t.corrupt = false ∧ t.overflow = false ∧ t.acc = 0 ∧ t.config = s.config) ∧
  (∀ (i : Instr) (s t : State), exec i s = .next t → i ≠ .srReset →
    (∀ h, i.wireHeader = some h → h = readHeader s.buf) →
    (s.corrupt = true → t.corrupt = true) ∧ (s.overflow = true → t.overflow = true) ∧
    ∃ (x : Bytes) (ms : List Message), (x = [] ∨ i = .srFeed x) ∧
      (∀ m ∈ ms, m.payload.length < 2 ^ 32) ∧ s.buf ++ x = (ms.map msgEnc).flatten ++ t.buf)
end

