-- ==== Sys2Proof/Laws/State.lean ====
section
/-! SUPPORT. What each update of the state writes and leaves, one lemma a field. -/

namespace Sys2Proof.Machine

variable (s : State)

/-! ### `report` -/

@[simp] theorem State.report_buf (r : Result) : (s.report r).buf = s.buf := rfl
@[simp] theorem State.report_corrupt (r : Result) : (s.report r).corrupt = s.corrupt := rfl
@[simp] theorem State.report_overflow (r : Result) : (s.report r).overflow = s.overflow := rfl
@[simp] theorem State.report_acc (r : Result) : (s.report r).acc = s.acc := rfl
@[simp] theorem State.report_config (r : Result) : (s.report r).config = s.config := rfl
@[simp] theorem State.report_tx (r : Result) : (s.report r).tx = s.tx := rfl
@[simp] theorem State.report_calls (r : Result) : (s.report r).calls = s.calls := rfl
@[simp] theorem State.report_results (r : Result) : (s.report r).results = s.results ++ [r] := rfl
@[simp] theorem State.report_pending (r : Result) : (s.report r).pending = s.pending := rfl

/-! ### `setCorrupt` -/

@[simp] theorem State.setCorrupt_buf : s.setCorrupt.buf = s.buf := rfl
@[simp] theorem State.setCorrupt_corrupt : s.setCorrupt.corrupt = true := rfl
@[simp] theorem State.setCorrupt_overflow : s.setCorrupt.overflow = s.overflow := rfl
@[simp] theorem State.setCorrupt_acc : s.setCorrupt.acc = s.acc := rfl
@[simp] theorem State.setCorrupt_config : s.setCorrupt.config = s.config := rfl
@[simp] theorem State.setCorrupt_tx : s.setCorrupt.tx = s.tx := rfl
@[simp] theorem State.setCorrupt_calls : s.setCorrupt.calls = s.calls := rfl
@[simp] theorem State.setCorrupt_results : s.setCorrupt.results = s.results := rfl
@[simp] theorem State.setCorrupt_pending : s.setCorrupt.pending = s.pending := rfl

/-! ### `setOverflow` -/

@[simp] theorem State.setOverflow_buf : s.setOverflow.buf = s.buf := rfl
@[simp] theorem State.setOverflow_corrupt : s.setOverflow.corrupt = s.corrupt := rfl
@[simp] theorem State.setOverflow_overflow : s.setOverflow.overflow = true := rfl
@[simp] theorem State.setOverflow_acc : s.setOverflow.acc = s.acc := rfl
@[simp] theorem State.setOverflow_config : s.setOverflow.config = s.config := rfl
@[simp] theorem State.setOverflow_tx : s.setOverflow.tx = s.tx := rfl
@[simp] theorem State.setOverflow_calls : s.setOverflow.calls = s.calls := rfl
@[simp] theorem State.setOverflow_results : s.setOverflow.results = s.results := rfl
@[simp] theorem State.setOverflow_pending : s.setOverflow.pending = s.pending := rfl

/-! ### `clear` -/

@[simp] theorem State.clear_buf : s.clear.buf = [] := rfl
@[simp] theorem State.clear_corrupt : s.clear.corrupt = false := rfl
@[simp] theorem State.clear_overflow : s.clear.overflow = false := rfl
@[simp] theorem State.clear_acc : s.clear.acc = 0 := rfl
@[simp] theorem State.clear_config : s.clear.config = s.config := rfl
@[simp] theorem State.clear_tx : s.clear.tx = s.tx := rfl
@[simp] theorem State.clear_calls : s.clear.calls = s.calls := rfl
@[simp] theorem State.clear_results : s.clear.results = s.results := rfl
@[simp] theorem State.clear_pending : s.clear.pending = s.pending := rfl

/-! ### `bufAppend` -/

@[simp] theorem State.bufAppend_buf (c : Bytes) : (s.bufAppend c).buf = s.buf ++ c := rfl
@[simp] theorem State.bufAppend_corrupt (c : Bytes) : (s.bufAppend c).corrupt = s.corrupt := rfl
@[simp] theorem State.bufAppend_overflow (c : Bytes) : (s.bufAppend c).overflow = s.overflow := rfl
@[simp] theorem State.bufAppend_acc (c : Bytes) : (s.bufAppend c).acc = s.acc := rfl
@[simp] theorem State.bufAppend_config (c : Bytes) : (s.bufAppend c).config = s.config := rfl
@[simp] theorem State.bufAppend_tx (c : Bytes) : (s.bufAppend c).tx = s.tx := rfl
@[simp] theorem State.bufAppend_calls (c : Bytes) : (s.bufAppend c).calls = s.calls := rfl
@[simp] theorem State.bufAppend_results (c : Bytes) : (s.bufAppend c).results = s.results := rfl
@[simp] theorem State.bufAppend_pending (c : Bytes) : (s.bufAppend c).pending = s.pending := rfl

/-! ### `bufDrop` -/

@[simp] theorem State.bufDrop_buf (n : Nat) : (s.bufDrop n).buf = s.buf.drop n := rfl
@[simp] theorem State.bufDrop_corrupt (n : Nat) : (s.bufDrop n).corrupt = s.corrupt := rfl
@[simp] theorem State.bufDrop_overflow (n : Nat) : (s.bufDrop n).overflow = s.overflow := rfl
@[simp] theorem State.bufDrop_acc (n : Nat) : (s.bufDrop n).acc = s.acc := rfl
@[simp] theorem State.bufDrop_config (n : Nat) : (s.bufDrop n).config = s.config := rfl
@[simp] theorem State.bufDrop_tx (n : Nat) : (s.bufDrop n).tx = s.tx := rfl
@[simp] theorem State.bufDrop_calls (n : Nat) : (s.bufDrop n).calls = s.calls := rfl
@[simp] theorem State.bufDrop_results (n : Nat) : (s.bufDrop n).results = s.results := rfl
@[simp] theorem State.bufDrop_pending (n : Nat) : (s.bufDrop n).pending = s.pending := rfl

/-! ### `takeError` and `noteOutcome`: only the sticky flags change -/

@[simp] theorem State.takeError_corrupt_eq (c : Cause) : s.takeError (.corrupt c) = s.setCorrupt := rfl
@[simp] theorem State.takeError_overflow_eq : s.takeError .overflow = s.setOverflow := rfl
@[simp] theorem State.noteOutcome_needMoreData : s.noteOutcome .needMoreData = s := rfl
@[simp] theorem State.noteOutcome_corruptMessage (c : Cause) :
    s.noteOutcome (.corruptMessage c) = s.setCorrupt := rfl
@[simp] theorem State.noteOutcome_bufferOverflow : s.noteOutcome .bufferOverflow = s.setOverflow := rfl
@[simp] theorem State.noteOutcome_buf (o : FeedOutcome) : (s.noteOutcome o).buf = s.buf := by
  cases o <;> rfl
@[simp] theorem State.noteOutcome_acc (o : FeedOutcome) : (s.noteOutcome o).acc = s.acc := by
  cases o <;> rfl
@[simp] theorem State.noteOutcome_config (o : FeedOutcome) : (s.noteOutcome o).config = s.config := by
  cases o <;> rfl
@[simp] theorem State.noteOutcome_tx (o : FeedOutcome) : (s.noteOutcome o).tx = s.tx := by
  cases o <;> rfl
@[simp] theorem State.noteOutcome_calls (o : FeedOutcome) : (s.noteOutcome o).calls = s.calls := by
  cases o <;> rfl
@[simp] theorem State.noteOutcome_results (o : FeedOutcome) : (s.noteOutcome o).results = s.results := by
  cases o <;> rfl
@[simp] theorem State.noteOutcome_pending (o : FeedOutcome) : (s.noteOutcome o).pending = s.pending := by
  cases o <;> rfl

/-! ### `scheduleDispatches` and `settle`: only the requests change -/

@[simp] theorem State.scheduleDispatches_buf : s.scheduleDispatches.buf = s.buf := rfl
@[simp] theorem State.scheduleDispatches_corrupt : s.scheduleDispatches.corrupt = s.corrupt := rfl
@[simp] theorem State.scheduleDispatches_overflow : s.scheduleDispatches.overflow = s.overflow := rfl
@[simp] theorem State.scheduleDispatches_acc : s.scheduleDispatches.acc = s.acc := rfl
@[simp] theorem State.scheduleDispatches_config : s.scheduleDispatches.config = s.config := rfl
@[simp] theorem State.scheduleDispatches_tx : s.scheduleDispatches.tx = s.tx := rfl
@[simp] theorem State.scheduleDispatches_calls : s.scheduleDispatches.calls = s.calls := rfl
@[simp] theorem State.scheduleDispatches_results : s.scheduleDispatches.results = s.results := rfl
@[simp] theorem State.settle_buf (r : Request) : (s.settle r).buf = s.buf := by
  cases r <;> rfl
@[simp] theorem State.settle_corrupt (r : Request) : (s.settle r).corrupt = s.corrupt := by
  cases r <;> rfl
@[simp] theorem State.settle_overflow (r : Request) : (s.settle r).overflow = s.overflow := by
  cases r <;> rfl
@[simp] theorem State.settle_acc (r : Request) : (s.settle r).acc = s.acc := by
  cases r <;> rfl
@[simp] theorem State.settle_config (r : Request) : (s.settle r).config = s.config := by
  cases r <;> rfl
@[simp] theorem State.settle_tx (r : Request) : (s.settle r).tx = s.tx := by
  cases r <;> rfl
@[simp] theorem State.settle_calls (r : Request) : (s.settle r).calls = s.calls := by
  cases r <;> rfl
@[simp] theorem State.settle_results (r : Request) : (s.settle r).results = s.results := by
  cases r <;> rfl
@[simp] theorem State.settle_op (sel : OpSel) (a : Operands) : s.settle (.op sel a) = s := rfl
@[simp] theorem State.settle_boundary : s.settle .boundary = s := rfl

/-! ### `create` -/

@[simp] theorem State.create_buf (c : Config) : (State.create c).buf = [] := rfl
@[simp] theorem State.create_corrupt (c : Config) : (State.create c).corrupt = false := rfl
@[simp] theorem State.create_overflow (c : Config) : (State.create c).overflow = false := rfl
@[simp] theorem State.create_acc (c : Config) : (State.create c).acc = 0 := rfl
@[simp] theorem State.create_config (c : Config) : (State.create c).config = c := rfl
@[simp] theorem State.create_tx (c : Config) : (State.create c).tx = [] := rfl
@[simp] theorem State.create_calls (c : Config) : (State.create c).calls = [] := rfl
@[simp] theorem State.create_results (c : Config) : (State.create c).results = [] := rfl
@[simp] theorem State.create_pending (c : Config) : (State.create c).pending = [] := rfl

end Sys2Proof.Machine
end

