-- ==== Sys2Proof/Laws/Ops.lean ====
section
/-! SUPPORT. What each shared operation can do, said once. -/

namespace Sys2Proof

/-! ### Byte order -/

@[simp] theorem le32_length (v : U32) : (le32 v).length = 4 := rfl

@[simp] theorem encodeHeader_length (h : Header) : (encodeHeader h).length = 24 := rfl

/-- `rd32` is the sum of R7. -/
theorem rd32_toNat (s : Bytes) (off : Nat) :
    (rd32 s off).toNat =
      (s.getD off 0).toNat + 2 ^ 8 * (s.getD (off + 1) 0).toNat +
        2 ^ 16 * (s.getD (off + 2) 0).toNat + 2 ^ 24 * (s.getD (off + 3) 0).toNat := by
  unfold rd32
  simp only [BitVec.toNat_append]
  rw [← Nat.shiftLeft_add_eq_or_of_lt (BitVec.isLt _), ← Nat.shiftLeft_add_eq_or_of_lt (BitVec.isLt _),
    ← Nat.shiftLeft_add_eq_or_of_lt (BitVec.isLt _)]
  simp only [Nat.shiftLeft_eq]
  ring

/-- The four bytes of `v`, standing at the front of any sequence, read back as `v` (R82). -/
theorem rd32_le32_append (v : U32) (t : Bytes) : rd32 (le32 v ++ t) 0 = v := by
  apply BitVec.eq_of_toNat_eq
  rw [rd32_toNat]
  simp only [le32, List.cons_append, List.nil_append, List.getD_cons_zero, List.getD_cons_succ,
    BitVec.extractLsb'_toNat, Nat.shiftRight_eq_div_pow]
  have := v.isLt
  omega

/-- Four bytes assembled and taken apart again are the same four (R82). -/
theorem le32_rd32 (a b c d : Byte) (t : Bytes) : le32 (rd32 (a :: b :: c :: d :: t) 0) = [a, b, c, d] := by
  have ha := a.isLt
  have hb := b.isLt
  have hc := c.isLt
  have hd := d.isLt
  simp only [le32, List.cons.injEq, and_true]
  refine ⟨?_, ?_, ?_, ?_⟩ <;> apply BitVec.eq_of_toNat_eq <;>
    simp only [BitVec.extractLsb'_toNat, rd32_toNat, Nat.shiftRight_eq_div_pow,
      List.getD_cons_zero, List.getD_cons_succ] <;> omega

/-- The four bytes at an offset, assembled and taken apart again, are those bytes (R82). -/
theorem le32_rd32_at (s : Bytes) (off : Nat) (h : off + 4 ≤ s.length) :
    le32 (rd32 s off) = (s.drop off).take 4 := by
  have hd : rd32 s off = rd32 (s.drop off) 0 := by
    simp [rd32, List.getD_eq_getElem?_getD]
  have hl : 4 ≤ (s.drop off).length := by simp; omega
  rw [hd]
  match s.drop off, hl with
  | a :: b :: c :: d :: t, _ => rw [le32_rd32]; simp

/-- Reading at an offset past a front part reads the rest. -/
theorem rd32_append_right (a s : Bytes) (off n : Nat) (h : n = a.length + off) :
    rd32 (a ++ s) n = rd32 s off := by
  subst h
  have key (k : Nat) : (a ++ s).getD (a.length + k) 0 = s.getD k 0 := by
    simp [List.getD_eq_getElem?_getD, List.getElem?_append_right]
  simp only [rd32, Nat.add_assoc, key]

/-- A read inside the front part does not see what follows. -/
theorem rd32_append_left (a s : Bytes) (off : Nat) (h : off + 4 ≤ a.length) :
    rd32 (a ++ s) off = rd32 a off := by
  simp only [rd32, List.getD_eq_getElem?_getD]
  rw [List.getElem?_append_left (by omega), List.getElem?_append_left (by omega),
    List.getElem?_append_left (by omega), List.getElem?_append_left (by omega)]

/-- A header's bytes read back as the header, whatever follows them (R112). -/
theorem readHeader_encodeHeader (h : Header) (t : Bytes) : readHeader (encodeHeader h ++ t) = h := by
  obtain ⟨c, a0, a1, len, ck, mg⟩ := h
  simp only [encodeHeader, readHeader, List.append_assoc, Header.mk.injEq]
  refine ⟨rd32_le32_append _ _, ?_, ?_, ?_, ?_, ?_⟩
  · rw [rd32_append_right _ _ 0 4 rfl, rd32_le32_append]
  · rw [rd32_append_right _ _ 4 8 rfl, rd32_append_right _ _ 0 4 rfl, rd32_le32_append]
  · rw [rd32_append_right _ _ 8 12 rfl, rd32_append_right _ _ 4 8 rfl,
      rd32_append_right _ _ 0 4 rfl, rd32_le32_append]
  · rw [rd32_append_right _ _ 12 16 rfl, rd32_append_right _ _ 8 12 rfl,
      rd32_append_right _ _ 4 8 rfl, rd32_append_right _ _ 0 4 rfl, rd32_le32_append]
  · rw [rd32_append_right _ _ 16 20 rfl, rd32_append_right _ _ 12 16 rfl,
      rd32_append_right _ _ 8 12 rfl, rd32_append_right _ _ 4 8 rfl,
      rd32_append_right _ _ 0 4 rfl, rd32_le32_append]

/-- The header of a sequence does not see past its 24 bytes (R111). -/
theorem readHeader_append (b t : Bytes) (h : 24 ≤ b.length) : readHeader (b ++ t) = readHeader b := by
  simp only [readHeader, Header.mk.injEq]
  refine ⟨?_, ?_, ?_, ?_, ?_, ?_⟩ <;> exact rd32_append_left _ _ _ (by omega)

/-- The bytes of a header read from the front of a sequence are the first 24 bytes (R112). -/
theorem encodeHeader_readHeader (b : Bytes) (h : 24 ≤ b.length) :
    encodeHeader (readHeader b) = b.take 24 := by
  simp only [encodeHeader, readHeader]
  rw [le32_rd32_at b 0 (by omega), le32_rd32_at b 4 (by omega), le32_rd32_at b 8 (by omega),
    le32_rd32_at b 12 (by omega), le32_rd32_at b 16 (by omega), le32_rd32_at b 20 (by omega)]
  rw [List.drop_zero]
  simp only [← List.take_add]

/-- A Message is one whose payload is shorter than 2^32 bytes. -/
@[simp] theorem Message.wellFormed_iff (m : Message) :
    m.wellFormed = true ↔ m.payload.length < 2 ^ 32 :=
  decide_eq_true_iff

namespace Machine

/-! ### Integrity functions -/

@[simp] theorem csum_nil : csum [] = 0 := rfl

/-- The accumulator started anywhere is the start plus the sum. -/
theorem foldl_accStep (p : Bytes) (acc : U32) : p.foldl accStep acc = acc + csum p := by
  induction p generalizing acc with
  | nil => simp [csum]
  | cons b p ih => rw [csum, List.foldl_cons, List.foldl_cons, ih, ih (accStep 0 b)]; simp [accStep, BitVec.add_assoc]

/-- One byte more in front. -/
theorem csum_cons (b : Byte) (p : Bytes) : csum (b :: p) = b.setWidth 32 + csum p := by
  rw [csum, List.foldl_cons, foldl_accStep]
  simp [accStep]

/-- The accumulator is the sum of the byte values modulo 2^32 (R7, R130). -/
theorem csum_eq_byteSum (p : Bytes) : csum p = BitVec.ofNat 32 (byteSum p) := by
  induction p with
  | nil => rfl
  | cons b p ih =>
    rw [csum_cons, ih]
    apply BitVec.eq_of_toNat_eq
    simp [byteSum]

/-- MAGIC inverts every bit (R131). -/
theorem magicOf_eq_not (c : U32) : magicOf c = ~~~c := by
  rw [magicOf, show (0xFFFFFFFF : U32) = BitVec.allOnes 32 from rfl, BitVec.xor_allOnes]

/-! ### Decoding -/

/-- A payload is taken exactly when it is whole. -/
theorem takePayload_eq_some {h : Header} {after p r : Bytes} :
    takePayload h after = some (p, r) ↔
      h.dataLength.toNat ≤ after.length ∧ p = after.take h.dataLength.toNat ∧
        r = after.drop h.dataLength.toNat := by
  unfold takePayload
  split
  · simp; omega
  · simp only [Option.some.injEq, Prod.mk.injEq, eq_comm (a := p), eq_comm (a := r)]
    have := ‹¬_›
    constructor
    · rintro ⟨h1, h2⟩; exact ⟨by omega, h1, h2⟩
    · rintro ⟨_, h1, h2⟩; exact ⟨h1, h2⟩

/-- The verdict on a whole frame: Ok exactly when both fields match. -/
theorem judge_eq_ok {h : Header} {p r rest : Bytes} {m : Message} :
    judge h p r = .ok m rest ↔
      h.magic = magicOf h.command ∧ h.dataChecksum = csum p ∧
        m = ⟨h.command, h.arg0, h.arg1, p⟩ ∧ rest = r := by
  simp only [judge]
  split
  · rename_i hb
    simp only [Bool.or_eq_true, bne_iff_ne] at hb
    simp; tauto
  · rename_i hb
    simp only [Bool.or_eq_true, bne_iff_ne, not_or, not_not] at hb
    simp [hb.1, hb.2, eq_comm]

/-- The verdict never asks for more. -/
theorem judge_ne_needMoreData (h : Header) (p r : Bytes) : judge h p r ≠ .needMoreData := by
  simp only [judge]
  split <;> simp

/-- `MSG.DEC` in one line per condition of R135. -/
theorem msgDec_cases (b : Bytes) :
    msgDec b =
      if b.length < 24 then .needMoreData
      else if b.length - 24 < (readHeader b).dataLength.toNat then .needMoreData
      else judge (readHeader b) ((b.drop 24).take (readHeader b).dataLength.toNat)
        ((b.drop 24).drop (readHeader b).dataLength.toNat) := by
  unfold msgDec hdrDec headerBytes
  split
  · rename_i h; split at h <;> simp_all
  · rename_i hd after h
    split at h
    · simp at h
    · rename_i hl
      obtain ⟨rfl, rfl⟩ := by simpa using h
      rw [if_neg hl]
      unfold decodeBody takePayload
      simp only [List.length_drop]
      by_cases hs : b.length - 24 < (readHeader b).dataLength.toNat <;> simp [hs]

/-- A frame is its header and its payload (41_message_codec.md R133). -/
@[simp] theorem msgEnc_length (m : Message) : (msgEnc m).length = 24 + m.payload.length := by
  rw [msgEnc, hdrEnc, List.length_append, encodeHeader_length]

/-- A successful decode removes a whole frame from the front. -/
theorem msgDec_ok_length {b rest : Bytes} {m : Message} (h : msgDec b = .ok m rest) :
    b.length = 24 + m.payload.length + rest.length := by
  rw [msgDec_cases] at h
  split at h
  · simp at h
  · split at h
    · simp at h
    · obtain ⟨_, _, rfl, rfl⟩ := judge_eq_ok.1 h
      simp only [List.length_take, List.length_drop]
      omega

/-- More bytes after a decided frame change neither the verdict nor the message (R162). -/
theorem msgDec_append {b : Bytes} (t : Bytes) (h : msgDec b ≠ .needMoreData) :
    msgDec (b ++ t) =
      match msgDec b with
      | .ok m rest => .ok m (rest ++ t)
      | .needMoreData => .needMoreData
      | .corruptMessage c => .corruptMessage c := by
  rw [msgDec_cases] at h ⊢
  rw [msgDec_cases b]
  by_cases h1 : b.length < 24
  · simp [h1] at h
  · by_cases h2 : b.length - 24 < (readHeader b).dataLength.toNat
    · simp [h1, h2] at h
    · have e := readHeader_append b t (by omega)
      rw [if_neg (by simp; omega), e, if_neg (by simp; omega), if_neg h1, if_neg h2,
        List.drop_append_of_le_length (by omega), List.take_append_of_le_length (by simp; omega),
        List.drop_append_of_le_length (by simp; omega)]
      simp only [judge]
      split <;> simp

/-- More bytes after a decided frame leave ACC as the frame left it. -/
theorem accAfterDec_append (acc : U32) {b : Bytes} (t : Bytes) (h : msgDec b ≠ .needMoreData) :
    accAfterDec acc (b ++ t) = accAfterDec acc b := by
  rw [msgDec_cases] at h
  by_cases h1 : b.length < 24
  · simp [h1] at h
  · by_cases h2 : b.length - 24 < (readHeader b).dataLength.toNat
    · simp [h1, h2] at h
    · have e := readHeader_append b t (by omega)
      simp only [accAfterDec, hdrDec, headerBytes, h1, if_false, e, accAfterBody, takePayload]
      rw [if_neg (by simp; omega)]
      simp only
      rw [if_neg (by simp; omega), if_neg (by simp; omega)]
      simp only
      rw [List.drop_append_of_le_length (by omega), List.take_append_of_le_length (by simp; omega)]

/-! ### The decode loop -/

/-- Any bound above the number of headers that fit gives the same loop (R168). -/
theorem drainLoop_bound {n k : Nat} {b : Bytes} (acc : U32) (hn : b.length / 24 < n)
    (hk : b.length / 24 < k) : drainLoop n b acc = drainLoop k b acc := by
  induction n generalizing k b acc with
  | zero => omega
  | succ n ih =>
    obtain ⟨k, rfl⟩ : ∃ j, k = j + 1 := ⟨k - 1, by omega⟩
    simp only [drainLoop]
    cases hd : msgDec b with
    | ok m rest =>
      have hl := msgDec_ok_length hd
      have e : drainLoop n rest (accAfterDec acc b) = drainLoop k rest (accAfterDec acc b) :=
        ih _ (by omega) (by omega)
      simp only [e]
    | needMoreData => rfl
    | corruptMessage c => rfl

/-- One pass of the loop, with no bound to carry (R160 step 4). -/
theorem drain_step (b : Bytes) (acc : U32) :
    drain b acc =
      match msgDec b with
      | .ok m rest =>
        let d := drain rest (accAfterDec acc b)
        ⟨m :: d.msgs, d.buf, d.acc, d.outcome⟩
      | .needMoreData => ⟨[], b, accAfterDec acc b, .needMoreData⟩
      | .corruptMessage c => ⟨[], b, accAfterDec acc b, .corruptMessage c⟩ := by
  unfold drain headerBytes
  rw [drainLoop]
  cases hd : msgDec b with
  | ok m rest =>
    have hl := msgDec_ok_length hd
    have e : drainLoop (b.length / 24) rest (accAfterDec acc b) =
        drainLoop (rest.length / 24 + 1) rest (accAfterDec acc b) :=
      drainLoop_bound _ (by omega) (by omega)
    simp only [e]
  | needMoreData => rfl
  | corruptMessage c => rfl

/-- The loop never ends in an overflow. -/
theorem drainLoop_outcome_ne_overflow (n : Nat) (b : Bytes) (acc : U32) :
    (drainLoop n b acc).outcome ≠ .bufferOverflow := by
  induction n generalizing b acc with
  | zero => simp [drainLoop]
  | succ n ih =>
    simp only [drainLoop]
    split <;> simp [ih]

/-- The phase is decided by one decode attempt (R26). -/
theorem phase_eq (b : Bytes) :
    phase b =
      if b.length < 24 then .waitHeader
      else
        match msgDec b with
        | .ok _ _ => .complete
        | .needMoreData => .waitPayload
        | .corruptMessage _ => .badFrame := by
  unfold phase headerBytes
  split
  · rfl
  · rename_i h
    split
    · rename_i h2
      have : msgDec b = .needMoreData := by
        rw [msgDec_cases, if_neg h, if_pos (show _ < (readHeader b).dataLength.toNat from h2)]
      rw [this]
    · rfl

/-! ### SR.FEED -/

/-- A limit is exceeded when there is one and the number is above it. -/
theorem exceeds_eq_true {l : Option Nat} {n : Nat} : exceeds l n = true ↔ ∃ k, l = some k ∧ n > k := by
  cases l <;> simp [exceeds]

/-- A limit is kept when every limit there is is at least the number. -/
theorem exceeds_eq_false {l : Option Nat} {n : Nat} : exceeds l n = false ↔ ∀ k, l = some k → n ≤ k := by
  cases l <;> simp [exceeds]

/-- Step 1 of R160. -/
theorem feed_of_overflow {s : State} (chunk : Bytes) (h : s.overflow = true) :
    s.feed chunk = s.report (.fed [] .bufferOverflow) := by
  simp [State.feed, h]

/-- Step 2 of R160. -/
theorem feed_of_exceeds {s : State} {chunk : Bytes} (h : s.overflow = false)
    (he : exceeds s.config.bufMax (s.buf.length + chunk.length) = true) :
    s.feed chunk = s.setOverflow.report (.fed [] .bufferOverflow) := by
  simp [State.feed, h, he]

/-- Steps 3 and 4 of R160. -/
theorem feed_of_fits {s : State} {chunk : Bytes} (h : s.overflow = false)
    (he : exceeds s.config.bufMax (s.buf.length + chunk.length) = false) :
    s.feed chunk = s.appendAndDrain chunk := by
  simp [State.feed, h, he]

/-- The three ways an SR.FEED goes (R160). -/
theorem feed_cases (s : State) (chunk : Bytes) :
    (s.overflow = true ∧ s.feed chunk = s.report (.fed [] .bufferOverflow)) ∨
      (s.overflow = false ∧ exceeds s.config.bufMax (s.buf.length + chunk.length) = true ∧
        s.feed chunk = s.setOverflow.report (.fed [] .bufferOverflow)) ∨
      (s.overflow = false ∧ exceeds s.config.bufMax (s.buf.length + chunk.length) = false ∧
        s.feed chunk = s.appendAndDrain chunk) := by
  cases ho : s.overflow
  · cases he : exceeds s.config.bufMax (s.buf.length + chunk.length)
    · exact .inr (.inr ⟨rfl, rfl, feed_of_fits ho he⟩)
    · exact .inr (.inl ⟨rfl, rfl, feed_of_exceeds ho he⟩)
  · exact .inl ⟨rfl, feed_of_overflow chunk ho⟩

/-- What an SR.FEED that stores its chunk leaves, in terms of the loop (R160 steps 3 and 4). -/
theorem appendAndDrain_eq (s : State) (chunk : Bytes) :
    s.appendAndDrain chunk =
      { s with
        buf := (drain (s.buf ++ chunk) s.acc).buf
        acc := (drain (s.buf ++ chunk) s.acc).acc
        corrupt := s.corrupt ||
          match (drain (s.buf ++ chunk) s.acc).outcome with
          | .corruptMessage _ => true
          | .needMoreData => false
          | .bufferOverflow => false
        results := s.results ++
          [.fed (drain (s.buf ++ chunk) s.acc).msgs (drain (s.buf ++ chunk) s.acc).outcome] } := by
  have hne := drainLoop_outcome_ne_overflow ((s.buf ++ chunk).length / headerBytes + 1)
    (s.buf ++ chunk) s.acc
  change (drain (s.buf ++ chunk) s.acc).outcome ≠ _ at hne
  unfold State.appendAndDrain
  simp only [State.bufAppend_buf]
  cases ho : (drain (s.buf ++ chunk) s.acc).outcome with
  | needMoreData => simp [State.report]
  | corruptMessage c => simp [State.report, State.setCorrupt]
  | bufferOverflow => exact absurd ho hne

/-! ### Memory -/

/-- The cells of any byte sequence are in canonical form. -/
@[simp] theorem Memory.wf_cells (b : Bytes) : Memory.wf (Memory.cells b) = true := by
  simp only [Memory.wf, Memory.cells, beq_iff_eq]
  rw [List.map_fst_zip (by simp)]
  simp

/-- BufAppend keeps the canonical form. -/
theorem Memory.wf_bufAppend (s : State) (c : Bytes) :
    Memory.wf (Memory.cells (s.bufAppend c).buf) = true :=
  Memory.wf_cells _

/-- BufDrop keeps the canonical form. -/
theorem Memory.wf_bufDrop (s : State) (n : Nat) :
    Memory.wf (Memory.cells (s.bufDrop n).buf) = true :=
  Memory.wf_cells _

/-- Memory at reset is in canonical form. -/
theorem Memory.wf_reset : Memory.wf (Memory.cells State.reset.buf) = true :=
  Memory.wf_cells _

/-- Bytes already in BUF keep their offsets when a chunk is appended (20_memory.md R54). -/
theorem readByte_bufAppend (s : State) (c : Bytes) (off : Nat) (h : off < s.buf.length) :
    (s.bufAppend c).readByte off = s.readByte off := by
  simp [State.readByte, List.getElem?_append_left h]

/-- Every remaining byte's offset falls by n when n bytes are dropped (20_memory.md R55). -/
theorem readByte_bufDrop (s : State) (n off : Nat) :
    (s.bufDrop n).readByte off = s.readByte (n + off) := by
  simp [State.readByte]

end Machine

end Sys2Proof
end

