-- ==== Sys2Proof/Laws/PerInstr.lean ====
section
/-! SUPPORT. Statements for all instructions, one lemma per constructor. -/

namespace Sys2Proof.Laws.EncodedShape

/-- An HDR24 instruction is encoded as 24 bytes, an operation as a selector other than the
unassigned 1111 (30_encoding.md R81, R91, R92). -/
def Statement (i : Instr) : Prop :=
  match encode i with
  | .wire b => b.length = 24 ∧ i.wireHeader ≠ none
  | .command sel _ => sel ≠ 0b1111 ∧ i.wireHeader = none

theorem frame (h : Header) : Statement (.frame h) := ⟨rfl, by simp [Instr.wireHeader]⟩
theorem cnxn (a b c d : U32) : Statement (.cnxn a b c d) := ⟨rfl, by simp [Instr.wireHeader]⟩
theorem opn (a b c d : U32) : Statement (.opn a b c d) := ⟨rfl, by simp [Instr.wireHeader]⟩
theorem okay (a b c d : U32) : Statement (.okay a b c d) := ⟨rfl, by simp [Instr.wireHeader]⟩
theorem clse (a b c d : U32) : Statement (.clse a b c d) := ⟨rfl, by simp [Instr.wireHeader]⟩
theorem wrte (a b c d : U32) : Statement (.wrte a b c d) := ⟨rfl, by simp [Instr.wireHeader]⟩
theorem sync (a b c d : U32) : Statement (.sync a b c d) := ⟨rfl, by simp [Instr.wireHeader]⟩
theorem srReset : Statement .srReset := ⟨by decide, rfl⟩
theorem srFeed (chunk : Bytes) : Statement (.srFeed chunk) := ⟨by decide, rfl⟩
theorem hdrEnc (h : Header) : Statement (.hdrEnc h) := ⟨by decide, rfl⟩
theorem hdrDec (b : Bytes) : Statement (.hdrDec b) := ⟨by decide, rfl⟩
theorem csum (p : Bytes) : Statement (.csum p) := ⟨by decide, rfl⟩
theorem magic (c : U32) : Statement (.magic c) := ⟨by decide, rfl⟩
theorem msgNew (c a0 a1 : U32) (p : Bytes) : Statement (.msgNew c a0 a1 p) := ⟨by decide, rfl⟩
theorem msgEnc (m : Message) : Statement (.msgEnc m) := ⟨by decide, rfl⟩
theorem msgDec (b : Bytes) : Statement (.msgDec b) := ⟨by decide, rfl⟩
theorem srStatus : Statement .srStatus := ⟨by decide, rfl⟩
theorem srBuflen : Statement .srBuflen := ⟨by decide, rfl⟩
theorem dispatch (m : Message) : Statement (.dispatch m) := ⟨by decide, rfl⟩
theorem buildConnect (v n : U32) (t : Text) : Statement (.buildConnect v n t) := ⟨by decide, rfl⟩
theorem buildCommand (c a0 a1 : U32) (t : Text) : Statement (.buildCommand c a0 a1 t) :=
  ⟨by decide, rfl⟩
theorem send (m : Message) : Statement (.send m) := ⟨by decide, rfl⟩

end Sys2Proof.Laws.EncodedShape
end

