-- ==== Sys2Proof/Tests/Slice0.lean ====
section
/-! SUPPORT. Tests: expected values come from 95_test_vectors.md (the vector is named in each
comment) or from the encodings of 30_encoding.md, and witnesses for the statements' hypotheses. -/

namespace Sys2Proof.Tests

open Sys2Proof.Machine

/-! ### Byte strings of 95_test_vectors.md -/

/-- HS: CNXN 0x01000000, 4096, "host::" and NUL. -/
def hs : Bytes :=
  [0x43, 0x4e, 0x58, 0x4e, 0x00, 0x00, 0x00, 0x01, 0x00, 0x10, 0x00, 0x00,
   0x07, 0x00, 0x00, 0x00, 0x32, 0x02, 0x00, 0x00, 0xbc, 0xb1, 0xa7, 0xb1] ++
  [0x68, 0x6f, 0x73, 0x74, 0x3a, 0x3a, 0x00]

/-- EMPTY: CNXN 0, 0 with no payload. -/
def emptyFrame : Bytes :=
  [0x43, 0x4e, 0x58, 0x4e, 0, 0, 0, 0, 0, 0, 0, 0, 0, 0, 0, 0, 0, 0, 0, 0, 0xbc, 0xb1, 0xa7, 0xb1]

/-- M3: command 0x11223344 with payload 01 02 03. -/
def m3 : Bytes :=
  [0x44, 0x33, 0x22, 0x11, 0xdd, 0xcc, 0xbb, 0xaa, 0x01, 0x00, 0x00, 0x00,
   0x03, 0x00, 0x00, 0x00, 0x06, 0x00, 0x00, 0x00, 0xbb, 0xcc, 0xdd, 0xee] ++ [1, 2, 3]

/-- BADCS: M3 with byte 16 = 07. -/
def badCs : Bytes := m3.set 16 0x07

/-- BADMG: M3 with byte 20 = ba. -/
def badMg : Bytes := m3.set 20 0xba

/-- H10: a header declaring ten payload bytes with sum 45. -/
def h10 : Bytes :=
  [0x44, 0x33, 0x22, 0x11, 0, 0, 0, 0, 0, 0, 0, 0, 0x0a, 0, 0, 0, 0x2d, 0, 0, 0,
   0xbb, 0xcc, 0xdd, 0xee]

def hsMessage : Message :=
  ⟨0x4e584e43, 0x01000000, 4096, [0x68, 0x6f, 0x73, 0x74, 0x3a, 0x3a, 0x00]⟩
def emptyMessage : Message := ⟨0x4e584e43, 0, 0, []⟩
def m3Message : Message := ⟨0x11223344, 0xaabbccdd, 1, [1, 2, 3]⟩
def m3Header : Header := ⟨0x11223344, 0xaabbccdd, 1, 3, 6, 0xeeddccbb⟩

/-- A new instance with bytes already in BUF. -/
def holding (b : Bytes) : State := { State.reset with buf := b }

/-- A new instance with BUF_MAX = some n. -/
def bounded (n : Nat) : State := State.create { Config.minimal with bufMax := some n }

/-- A new instance with MAX_PAYLOAD = some n and two handlers, as in P5. -/
def hosted (n : Nat) : State :=
  State.create ⟨none, some n, [(0x4e584e43, 1), (0x45545257, 2)]⟩

def nextOf : Host.Outcome State Fault Refusal → Option State
  | .next t => some t
  | .fault _ => none
  | .refused _ => none

/-- The answer of an instruction. -/
def answer (i : Instr) (s : State) : Option Result :=
  (nextOf (exec i s)).bind fun t => t.results.getLast?

/-- A view of the state an instruction leaves. -/
def left (i : Instr) (s : State) : Option (Nat × Bool × Bool) :=
  (nextOf (exec i s)).map fun t => (t.buf.length, t.corrupt, t.overflow)

/-! ### Well-formedness smoke -/

theorem test_wf_named_header_is_no_frame :
    (Instr.frame (cnxnRow.header 1 2 3 4)).wellFormed = false := by decide
theorem test_wf_other_header_is_frame : (Instr.frame m3Header).wellFormed = true := by decide
theorem test_wf_overlong_message (c a0 a1 : U32) :
    (Instr.msgEnc ⟨c, a0, a1, List.replicate (2 ^ 32) 0⟩).wellFormed = false ∧
    (Instr.dispatch ⟨c, a0, a1, List.replicate (2 ^ 32) 0⟩).wellFormed = false ∧
    (Instr.send ⟨c, a0, a1, List.replicate (2 ^ 32) 0⟩).wellFormed = false := by
  simp only [Instr.wellFormed, Bool.eq_false_iff, ne_eq, Message.wellFormed_iff,
    List.length_replicate, lt_irrefl, not_false_eq_true, and_self]
theorem test_wf_short_message : (Instr.send m3Message).wellFormed = true := by decide

/-! ### Decoding: words written out from R81, R85 and R91 -/

theorem test_decode_frame : decode (.wire m3) = .instr (.frame m3Header) := by decide
theorem test_decode_cnxn : decode (.wire hs) = .instr (.cnxn 0x01000000 4096 7 0x232) := by decide
theorem test_decode_open :
    decode (.wire [0x4f, 0x50, 0x45, 0x4e, 1, 0, 0, 0, 0, 0, 0, 0, 9, 0, 0, 0, 0x31, 3, 0, 0,
      0xb0, 0xaf, 0xba, 0xb1]) = .instr (.opn 1 0 9 0x331) := by decide
theorem test_decode_okay :
    decode (.wire [0x4f, 0x4b, 0x41, 0x59, 7, 0, 0, 0, 1, 0, 0, 0, 0, 0, 0, 0, 0, 0, 0, 0,
      0xb0, 0xb4, 0xbe, 0xa6]) = .instr (.okay 7 1 0 0) := by decide
theorem test_decode_clse :
    decode (.wire [0x43, 0x4c, 0x53, 0x45, 1, 0, 0, 0, 2, 0, 0, 0, 0, 0, 0, 0, 0, 0, 0, 0,
      0xbc, 0xb3, 0xac, 0xba]) = .instr (.clse 1 2 0 0) := by decide
theorem test_decode_wrte :
    decode (.wire [0x57, 0x52, 0x54, 0x45, 1, 0, 0, 0, 7, 0, 0, 0, 2, 0, 0, 0, 0xd1, 0, 0, 0,
      0xa8, 0xad, 0xab, 0xba]) = .instr (.wrte 1 7 2 0xd1) := by decide
theorem test_decode_sync :
    decode (.wire [0x53, 0x59, 0x4e, 0x43, 0, 0, 0, 1, 0, 0, 0, 0, 0, 0, 0, 0, 0, 0, 0, 0,
      0xac, 0xa6, 0xb1, 0xbc]) = .instr (.sync 0x01000000 0 0 0) := by decide
theorem test_decode_wrong_magic_is_frame :
    decode (.wire (emptyFrame.set 23 0x00)) =
      .instr (.frame ⟨0x4e584e43, 0, 0, 0, 0, 0x00a7b1bc⟩) := by decide
theorem test_decode_23_bytes : decode (.wire (m3.take 23)) = .rejected .needMoreData := by decide

/-- An operand port with a different value in each slot. -/
def port : Operands := ⟨1, 2, 3, 4, 5, 6, [7, 8], [9]⟩

theorem test_decode_ops_low :
    decode (.command 0b0000 port) = .instr .srReset ∧
    decode (.command 0b0001 port) = .instr (.srFeed [7, 8]) ∧
    decode (.command 0b0010 port) = .instr (.hdrEnc ⟨1, 2, 3, 4, 5, 6⟩) ∧
    decode (.command 0b0011 port) = .instr (.hdrDec [7, 8]) ∧
    decode (.command 0b0100 port) = .instr (.csum [7, 8]) ∧
    decode (.command 0b0101 port) = .instr (.magic 1) ∧
    decode (.command 0b0110 port) = .instr (.msgNew 1 2 3 [7, 8]) ∧
    decode (.command 0b0111 port) = .instr (.msgEnc ⟨1, 2, 3, [7, 8]⟩) := by decide
theorem test_decode_ops_high :
    decode (.command 0b1000 port) = .instr (.msgDec [7, 8]) ∧
    decode (.command 0b1001 port) = .instr .srStatus ∧
    decode (.command 0b1010 port) = .instr .srBuflen ∧
    decode (.command 0b1011 port) = .instr (.dispatch ⟨1, 2, 3, [7, 8]⟩) ∧
    decode (.command 0b1100 port) = .instr (.buildConnect 1 2 [9]) ∧
    decode (.command 0b1101 port) = .instr (.buildCommand 1 2 3 [9]) ∧
    decode (.command 0b1110 port) = .instr (.send ⟨1, 2, 3, [7, 8]⟩) ∧
    decode (.command 0b1111 port) = .rejected .unassignedOpsel := by decide
theorem test_table_word_cnxn :
    decodeTableWord 192 0xb1a7b1bc000000000000000000000000000000004e584e43 =
      some (.cnxn 0 0 0 0) := by decide
theorem test_table_word_send : decodeTableWord 8 0b1110 = some (.send ⟨0, 0, 0, []⟩) := by decide
theorem test_pack4_cnxn : pack4 0x43 0x4e 0x58 0x4e = 0x4e584e43 := by decide

/-! ### Header Codec -/

/-- H1. -/
theorem test_hdrEnc_hs :
    answer (.hdrEnc ⟨0x4e584e43, 0x01000000, 0x00001000, 7, 0x232, 0xB1A7B1BC⟩) State.reset =
      some (.bytes (hs.take 24)) := by decide
/-- H2. -/
theorem test_hdrEnc_order :
    answer (.hdrEnc ⟨0x04030201, 0x08070605, 0x0c0b0a09, 0x100f0e0d, 0x14131211, 0x18171615⟩)
      State.reset =
      some (.bytes [1, 2, 3, 4, 5, 6, 7, 8, 9, 10, 11, 12, 13, 14, 15, 16, 17, 18, 19, 20, 21, 22,
        23, 24]) := by decide
/-- H5. -/
theorem test_hdrDec_m3 :
    answer (.hdrDec m3) State.reset = some (.header m3Header [1, 2, 3]) := by decide
/-- H7. -/
theorem test_hdrDec_23 : answer (.hdrDec (m3.take 23)) State.reset = some .needMoreData := by decide

/-! ### Message Codec -/

/-- A2v. -/
theorem test_csum_host :
    answer (.csum [0x68, 0x6f, 0x73, 0x74, 0x3a, 0x3a, 0x00]) State.reset = some (.word 0x232) := by
  decide
/-- A8v: the accumulator wraps. -/
theorem test_csum_wrap : accStep 0xFFFFFFFF 0x02 = 0x00000001 := by decide
/-- A9v. -/
theorem test_magic_mixed : answer (.magic 0x12345678) State.reset = some (.word 0xEDCBA987) := by
  decide
/-- S3. -/
theorem test_magic_cnxn : answer (.magic 0x4e584e43) State.reset = some (.word 0xB1A7B1BC) := by
  decide
/-- E2v, first half. -/
theorem test_msgNew_m3 :
    answer (.msgNew 0x11223344 0xAABBCCDD 1 [1, 2, 3]) State.reset = some (.message m3Message) := by
  decide
/-- E2v, second half. -/
theorem test_msgEnc_m3 : answer (.msgEnc m3Message) State.reset = some (.bytes m3) := by decide
/-- E4v. -/
theorem test_msgEnc_top :
    answer (.msgEnc ⟨0xFFFFFFFF, 0xFFFFFFFF, 0xFFFFFFFF, [0x00]⟩) State.reset =
      some (.bytes (List.replicate 12 0xff ++ [1] ++ List.replicate 12 0)) := by decide
/-- D12v: both checks fail. -/
theorem test_msgDec_both_bad :
    answer (.msgDec ((m3.set 20 0xba).set 26 0x07)) State.reset =
      some (.corruptMessage ⟨true, true⟩) := by decide
/-- D20v: data_length 2^32 - 1 is not compared in 32 bits. -/
theorem test_msgDec_huge_length :
    answer (.msgDec (([0x43, 0x4e, 0x58, 0x4e, 0, 0, 0, 0, 0, 0, 0, 0, 0xff, 0xff, 0xff, 0xff,
      0, 0, 0, 0, 0xbc, 0xb1, 0xa7, 0xb1] : Bytes) ++ List.replicate 16 0)) State.reset =
      some .needMoreData := by decide

/-! ### Stream Reassembler -/

/-- F8: the frame before a corrupt one is emitted, the rest stays. -/
theorem test_srFeed_corrupt :
    answer (.srFeed (emptyFrame ++ badCs ++ emptyFrame)) State.reset =
      some (.fed [emptyMessage] (.corruptMessage ⟨false, true⟩)) ∧
    left (.srFeed (emptyFrame ++ badCs ++ emptyFrame)) State.reset = some (51, true, false) := by
  decide
/-- F14: a chunk over BUF_MAX is refused whole and BUF stays. -/
theorem test_srFeed_overflow :
    answer (.srFeed ((hs.drop 20))) { bounded 30 with buf := hs.take 20 } =
      some (.fed [] .bufferOverflow) ∧
    left (.srFeed ((hs.drop 20))) { bounded 30 with buf := hs.take 20 } =
      some (20, false, true) := by decide
/-- F10. -/
theorem test_srReset_clears :
    left .srReset { holding badCs with corrupt := true, overflow := true } =
      some (0, false, false) := by decide
/-- F18: both flags read as 3. -/
theorem test_srStatus_both :
    answer .srStatus { holding badCs with corrupt := true, overflow := true } =
      some (.word 3) := by decide
/-- S5: 28 bytes held. -/
theorem test_srBuflen_partial :
    answer .srBuflen (holding (h10 ++ [0, 1, 2, 3])) = some (.length 28) := by decide

/-! ### Frames at the frame boundary -/

/-- D5v and R161 COMPLETE: the frame is removed, what follows stays. -/
theorem test_frame_complete :
    answer (.frame m3Header) (holding (m3 ++ [0xde, 0xad])) = some (.message m3Message) ∧
    left (.frame m3Header) (holding (m3 ++ [0xde, 0xad])) = some (2, false, false) := by decide
/-- D10v: a wrong magic; the frame stays. -/
theorem test_frame_bad_magic :
    answer (.frame { m3Header with magic := 0xEEDDCCBA }) (holding badMg) =
      some (.corruptMessage ⟨true, false⟩) ∧
    left (.frame { m3Header with magic := 0xEEDDCCBA }) (holding badMg) =
      some (27, true, false) := by decide
/-- S1. -/
theorem test_cnxn_handshake :
    answer (.cnxn 0x01000000 4096 7 0x232) (holding hs) = some (.message hsMessage) := by decide
/-- F2: 30 of 31 bytes. -/
theorem test_cnxn_waits :
    answer (.cnxn 0x01000000 4096 7 0x232) (holding (hs.take 30)) = some .needMoreData := by decide
/-- OPENF. -/
theorem test_opn_shell :
    answer (.opn 1 0 9 0x331) (holding (encodeHeader (openRow.header 1 0 9 0x331) ++
      [0x73, 0x68, 0x65, 0x6c, 0x6c, 0x3a, 0x6c, 0x73, 0x00])) =
      some (.message ⟨0x4e45504f, 1, 0, [0x73, 0x68, 0x65, 0x6c, 0x6c, 0x3a, 0x6c, 0x73, 0x00]⟩) := by
  decide
/-- E6v. -/
theorem test_okay_empty :
    answer (.okay 7 1 0 0) (holding (encodeHeader (okayRow.header 7 1 0 0))) =
      some (.message ⟨0x59414b4f, 7, 1, []⟩) := by decide
/-- A checksum of 1 for an empty payload (R86). -/
theorem test_clse_bad_checksum :
    answer (.clse 1 2 0 1) (holding (encodeHeader (clseRow.header 1 2 0 1))) =
      some (.corruptMessage ⟨false, true⟩) := by decide
/-- WRTEF. -/
theorem test_wrte_hi :
    answer (.wrte 1 7 2 0xd1) (holding (encodeHeader (wrteRow.header 1 7 2 0xd1) ++ [0x68, 0x69])) =
      some (.message ⟨0x45545257, 1, 7, [0x68, 0x69]⟩) := by decide
/-- R87: the sync marker is a frame like any other. -/
theorem test_sync_plain :
    answer (.sync 0 0 0 0) (holding (encodeHeader (syncRow.header 0 0 0 0))) =
      some (.message ⟨0x434e5953, 0, 0, []⟩) := by decide

/-! ### Host side -/

/-- B10: a registered handler, and the default. -/
theorem test_dispatch_calls :
    (nextOf (exec (.dispatch hsMessage) (hosted 4096))).map State.calls =
      some [⟨.registered 1, hsMessage⟩] ∧
    (nextOf (exec (.dispatch m3Message) (hosted 4096))).map State.calls =
      some [⟨.default, m3Message⟩] := by decide
/-- S9. -/
theorem test_buildConnect_host :
    answer (.buildConnect 0x01000000 4096 [0x68, 0x6f, 0x73, 0x74, 0x3a, 0x3a]) State.reset =
      some (.message hsMessage) := by decide
/-- B5: one NUL is appended even to a text that ends in one. -/
theorem test_buildCommand_nul :
    answer (.buildCommand 5 0 0 [0x61, 0]) State.reset =
      some (.message ⟨5, 0, 0, [0x61, 0, 0]⟩) := by decide
/-- B6: a character with code 233. -/
theorem test_buildCommand_refuses : answer (.buildCommand 5 0 0 [233]) State.reset =
    some .textRefused := by decide
/-- P5 step 1, and B7 with B8 at a small limit: the test is >, not >=. -/
theorem test_send_limit :
    (nextOf (exec (.send hsMessage) (hosted 7))).map State.tx = some hs ∧
    answer (.send hsMessage) (hosted 6) = some .oversizedPayload ∧
    (nextOf (exec (.send hsMessage) (hosted 6))).map State.tx = some [] := by decide

/-! ### The step -/

/-- The first instruction after reset: the all-zero header is corrupt (D21v). -/
theorem test_step_zero_frame :
    (nextOf (step (State.reset.withFetchWord 192 0))).map State.results =
      some [.corruptMessage ⟨true, false⟩] := by decide
/-- The first instruction after reset: the smallest CNXN frame (E1v). -/
theorem test_step_cnxn :
    (nextOf (step (State.reset.withFetchWord 192
      0xb1a7b1bc000000000000000000000000000000004e584e43))).map State.results =
      some [.message emptyMessage] := by decide
/-- The first instruction after reset: SR.FEED of nothing (F5). -/
theorem test_step_feed :
    (nextOf (step (State.reset.withFetchWord 8 0b0001))).map State.results =
      some [.fed [] .needMoreData] := by decide
/-- B11: the message before a corrupt frame is dispatched to the default handler. -/
theorem test_step_arrival :
    (runSteps 2 { State.reset with pending := [.arrival (emptyFrame ++ badCs)] }).map
      (fun t => (t.calls, t.results, t.pending)) =
      some ([⟨.default, emptyMessage⟩],
        [.fed [emptyMessage] (.corruptMessage ⟨false, true⟩), .unknownCommand], []) := by decide

/-! ### Witnesses: concrete values that meet the hypotheses of the statements, clause by clause -/

theorem witness_DecodeEncodeRoundTrip :
    (Instr.frame m3Header).wellFormed = true ∧ (Instr.sync 1 2 3 4).wellFormed = true ∧
      (Instr.msgEnc m3Message).wellFormed = true := by decide
theorem witness_NamedRowsMatchTheirBits :
    (0 < 2 ^ 192 ∧ 2 ^ 192 - 1 < 2 ^ 192) ∧ decodeTableWord 192 0 = some (.frame ⟨0, 0, 0, 0, 0, 0⟩) ∧
      decodeTableWord 192 0xbcb1a6acffffffffffffffffffffffffffffffff434e5953 =
        some (.sync 0xffffffff 0xffffffff 0xffffffff 0xffffffff) := by decide
theorem witness_HdrDecReadsSixFields : (m3.take 23).length < 24 ∧ 24 ≤ (m3.take 24).length := by
  decide
theorem witness_HeaderRoundTrips :
    answer (.hdrEnc m3Header) State.reset = some (.bytes (m3.take 24)) ∧ 24 ≤ m3.length ∧
      answer (.hdrDec m3) State.reset = some (.header m3Header [1, 2, 3]) := by decide
theorem witness_CsumIsSumOfByteValues :
    ([1, 2, 3] : Bytes).Perm [3, 2, 1] ∧ answer (.csum [1, 2, 3]) State.reset = some (.word 6) ∧
      answer (.csum [0xff]) State.reset = some (.word 255) := by decide
theorem witness_payload_lengths :
    ([] : Bytes).length < 2 ^ 32 ∧ (List.replicate (2 ^ 32 - 1) (0 : Byte)).length < 2 ^ 32 ∧
      2 ^ 32 ≤ (List.replicate (2 ^ 32) (0 : Byte)).length := by
  simp only [List.length_replicate]
  decide
theorem witness_OverlongMessageIsNotEncoded :
    2 ^ 32 ≤ (⟨0, 0, 0, List.replicate (2 ^ 32) 0⟩ : Message).payload.length ∧
      State.reset.config.maxPayload = none ∧
      ((hosted (2 ^ 32)).config.maxPayload = some (2 ^ 32) ∧
        (⟨0, 0, 0, List.replicate (2 ^ 32) 0⟩ : Message).payload.length ≤ 2 ^ 32) := by
  simp only [List.length_replicate]
  decide
/-- MSG.DEC's four conditions: D2v, D4v, D8v, D5v. -/
theorem witness_MsgDecChecksInOrder :
    (m3.take 23).length < 24 ∧
    (24 ≤ (m3.take 26).length ∧
      (m3.take 26).length - 24 < (readHeader (m3.take 26)).dataLength.toNat) ∧
    (24 ≤ badCs.length ∧ (readHeader badCs).dataLength.toNat ≤ badCs.length - 24 ∧
      (readHeader badCs).dataChecksum.toNat ≠ byteSum ((badCs.drop 24).take 3) % 2 ^ 32) ∧
    (24 ≤ m3.length ∧ (readHeader m3).dataLength.toNat ≤ m3.length - 24 ∧
      (readHeader m3).magic = (readHeader m3).command ^^^ 0xFFFFFFFF ∧
      (readHeader m3).dataChecksum.toNat = byteSum ((m3.drop 24).take 3) % 2 ^ 32) := by decide
theorem witness_MessageRoundTrips :
    m3Message.payload.length < 2 ^ 32 ∧ m3.take 26 <+: msgEnc m3Message ∧
      m3.take 26 ≠ msgEnc m3Message ∧
      answer (.msgDec (m3 ++ [0xde, 0xad])) State.reset = some (.decoded m3Message [0xde, 0xad]) := by
  decide
theorem witness_MsgDecIsStableUnderMoreBytes :
    answer (.msgDec m3) State.reset = some (.decoded m3Message []) ∧
      answer (.msgDec badCs) State.reset = some (.corruptMessage ⟨false, true⟩) ∧
      answer (.msgDec (m3.take 20 ++ [0])) State.reset = some .needMoreData := by decide
/-- SR.FEED's steps: a latched overflow, one byte too many, and an exact fit with each outcome of
MSG.DEC. -/
theorem witness_FeedFollowsItsFourSteps :
    ({ bounded 31 with overflow := true } : State).overflow = true ∧
    ((bounded 30).overflow = false ∧ (bounded 30).config.bufMax = some 30 ∧
      (bounded 30).buf.length + hs.length > 30) ∧
    ((bounded 31).config.bufMax = some 31 ∧ (bounded 31).buf.length + hs.length ≤ 31 ∧
      msgDec ((bounded 31).buf ++ hs) = .ok hsMessage [] ∧
      msgDec ((bounded 31).buf ++ hs.take 30) = .needMoreData ∧
      msgDec ((bounded 31).buf ++ badCs) = .corruptMessage ⟨false, true⟩) := by decide
theorem witness_OverflowLatches :
    (bounded 30).overflow = false ∧ (bounded 30).config.bufMax = some 30 ∧
      30 < (bounded 30).buf.length + hs.length := by decide
/-- Two cuttings of one frame, both fed whole, and the same with a partial frame after it. -/
theorem witness_FragmentationDoesNotMatter :
    (([m3.take 10, m3.drop 10] : List Bytes) ≠ [] ∧
      ([m3.take 10, m3.drop 10] : List Bytes).flatten = ([m3] : List Bytes).flatten ∧
      (runFeeds [m3.take 10, m3.drop 10] (bounded 27)).map State.overflow = some false ∧
      (runFeeds [m3] (bounded 27)).map State.overflow = some false) ∧
    (State.reset.config.bufMax = none ∧ State.reset.overflow = false) ∧
    (hs.take 5 <+: msgEnc hsMessage ∧ hs.take 5 ≠ msgEnc hsMessage ∧
      (∀ k ∈ [m3Message, emptyMessage], k.payload.length < 2 ^ 32) ∧
      hsMessage.payload.length < 2 ^ 32 ∧
      ([m3, emptyFrame ++ hs.take 5] : List Bytes).flatten =
        ([m3Message, emptyMessage].map msgEnc).flatten ++ hs.take 5) := by decide
theorem witness_FeedAccountsForEveryByte :
    (bounded 51).overflow = false ∧ (bounded 51).config.bufMax = some 51 ∧
      (bounded 51).buf.length + (emptyFrame ++ m3).length ≤ 51 := by decide
theorem witness_CorruptFrameSticks :
    msgDec (holding badMg).buf = .corruptMessage ⟨true, false⟩ ∧ (holding badMg).overflow = false ∧
      (holding badMg).config.bufMax = none := by decide
/-- Code 6 from a payload of 2^32 bytes, which MAX_PAYLOAD allows where SEND answers it. -/
theorem code_six_of_long (s : State) (p : Bytes) (h : 2 ^ 32 ≤ p.length)
    (hs : exceeds s.config.maxPayload p.length = false) :
    exec (.msgNew 5 0 0 p) s = .next (s.report .payloadTooLong) ∧
      exec (.msgEnc ⟨5, 0, 0, p⟩) s = .next (s.report .payloadTooLong) ∧
      exec (.send ⟨5, 0, 0, p⟩) s = .next (s.report .payloadTooLong) := by
  have w : (⟨5, 0, 0, p⟩ : Message).wellFormed = false := by
    rw [← Bool.not_eq_true, Message.wellFormed_iff]; exact Nat.not_lt.2 h
  simp only [exec, execMsgNew, execMsgEnc, execSend, State.newMessage, w, hs, Bool.false_eq_true,
    if_false, and_self]
theorem witness_code_six :
    (exec (.msgNew 5 0 0 (List.replicate (2 ^ 32) 0)) State.reset =
        .next (State.reset.report .payloadTooLong) ∧
      exec (.msgEnc ⟨5, 0, 0, List.replicate (2 ^ 32) 0⟩) State.reset =
        .next (State.reset.report .payloadTooLong) ∧
      exec (.send ⟨5, 0, 0, List.replicate (2 ^ 32) 0⟩) State.reset =
        .next (State.reset.report .payloadTooLong)) ∧
    Result.payloadTooLong.code = some 6 :=
  ⟨code_six_of_long State.reset _ (by rw [List.length_replicate]) rfl, rfl⟩
/-- Code 6 from a text that with its NUL is a payload of 2^32 bytes. -/
theorem code_six_of_long_text (s : State) (x : Text) (h : ∀ ch ∈ x, ch < 128)
    (l : 2 ^ 32 ≤ x.length + 1) :
    exec (.buildConnect 5 0 x) s = .next (s.report .payloadTooLong) ∧
      exec (.buildCommand 5 0 0 x) s = .next (s.report .payloadTooLong) := by
  have e : textPayload x = some (x.map (BitVec.ofNat 8) ++ [0]) :=
    if_pos (List.all_eq_true.2 fun c hc => decide_eq_true (h c hc))
  have w (c a0 a1 : U32) :
      (⟨c, a0, a1, x.map (BitVec.ofNat 8) ++ [0]⟩ : Message).wellFormed = false := by
    rw [← Bool.not_eq_true, Message.wellFormed_iff, List.length_append, List.length_map]
    exact Nat.not_lt.2 l
  simp only [exec, execBuildConnect, execBuildCommand, State.newTextMessage, e, State.newMessage, w,
    Bool.false_eq_true, if_false, and_self]
theorem witness_code_six_text :
    exec (.buildConnect 5 0 (List.replicate (2 ^ 32 - 1) 0)) State.reset =
        .next (State.reset.report .payloadTooLong) ∧
      exec (.buildCommand 5 0 0 (List.replicate (2 ^ 32 - 1) 0)) State.reset =
        .next (State.reset.report .payloadTooLong) :=
  code_six_of_long_text State.reset _
    (fun ch h => by rw [List.eq_of_mem_replicate h]; decide) (by rw [List.length_replicate]; decide)
/-- R210's host-side codes: a miss, a hit, an oversized payload, and payloads that are messages'. -/
theorem witness_HostSideOutcomesHaveTheirCodes :
    (answer (.dispatch m3Message) (hosted 6)).bind Result.code = some 4 ∧
      (answer (.dispatch hsMessage) (hosted 6)).bind Result.code = some 0 ∧
      (answer (.send hsMessage) (hosted 6)).bind Result.code = some 5 ∧
      (answer (.msgNew 5 0 0 [1]) (hosted 6)).bind Result.code = some 0 ∧
      (answer (.msgEnc m3Message) (hosted 6)).bind Result.code = some 0 := by decide
/-- A block at rest in each of its two kinds: waiting, and stuck on a corrupt frame. -/
theorem witness_atRest :
    ((holding (hs.take 24)).atRest ∧ (holding (hs.take 24)).withinBufMax ∧
      (holding (hs.take 24)).overflow = false) ∧
    (({ holding badCs with corrupt := true } : State).atRest ∧
      ({ holding badCs with corrupt := true } : State).withinBufMax ∧
      ({ holding badCs with corrupt := true } : State).overflow = false) := by
  unfold State.atRest State.withinBufMax
  exact ⟨⟨by decide, fun _ h => (by cases h), by decide⟩,
    ⟨by decide, fun _ h => (by cases h), by decide⟩⟩
/-- A frame in each of the three conditions, for a named row and for FRAME. -/
theorem witness_FramesRunAtTheBoundary :
    (Instr.cnxn 0x01000000 4096 7 0x232).wireHeader = some (readHeader hs) ∧
    (Instr.frame m3Header).wireHeader = some (readHeader m3) ∧
    24 ≤ (holding (hs.take 24)).buf.length ∧ (holding (hs.take 24)).overflow = false ∧
    (holding (hs.take 30)).buf.length - 24 < (readHeader hs).dataLength.toNat ∧
    ((readHeader hs).dataLength.toNat ≤ (holding hs).buf.length - 24 ∧
      (readHeader hs).magic = (readHeader hs).command ^^^ 0xFFFFFFFF ∧
      (readHeader hs).dataChecksum.toNat =
        byteSum (((holding hs).buf.drop 24).take 7) % 2 ^ 32) ∧
    (3 ≤ (holding badMg).buf.length - 24 ∧
      (readHeader badMg).magic ≠ (readHeader badMg).command ^^^ 0xFFFFFFFF) := by decide
theorem witness_FramesNotDecoded :
    (Instr.sync 0 0 0 0).wireHeader = some (syncRow.header 0 0 0 0) ∧
      ({ State.reset with overflow := true } : State).overflow = true ∧
      (State.reset.overflow = false ∧ (holding (hs.take 23)).buf.length < 24) := by decide
/-- Two headers that agree but for the command and its matching magic, and two with a wrong magic. -/
theorem witness_CommandValueMakesNoDifference :
    (Instr.sync 1 2 3 6).wireHeader = some (syncRow.header 1 2 3 6) ∧
      (Instr.wrte 1 2 3 6).wireHeader = some (wrteRow.header 1 2 3 6) ∧
      ((syncRow.header 1 2 3 6).magic = (syncRow.header 1 2 3 6).command ^^^ 0xFFFFFFFF ↔
        (wrteRow.header 1 2 3 6).magic = (wrteRow.header 1 2 3 6).command ^^^ 0xFFFFFFFF) ∧
      ((Instr.frame ⟨7, 1, 2, 3, 6, 7⟩).wireHeader = some ⟨7, 1, 2, 3, 6, 7⟩ ∧
        ((7 : U32) ≠ 7 ^^^ 0xFFFFFFFF ∧ (8 : U32) ≠ 8 ^^^ 0xFFFFFFFF)) ∧
      answer (.sync 1 2 3 6) (holding (encodeHeader (syncRow.header 1 2 3 6) ++ [1, 2, 3])) =
        some (.message ⟨0x434e5953, 1, 2, [1, 2, 3]⟩) ∧
      answer (.wrte 1 2 3 6) (holding (encodeHeader (syncRow.header 1 2 3 6) ++ [1, 2, 3])) =
        some (.message ⟨0x45545257, 1, 2, [1, 2, 3]⟩) := by decide
theorem witness_NamedFramesNeverFailMagic :
    (Instr.clse 1 2 0 1).wireHeader ≠ none ∧
      (nextOf (exec (.clse 1 2 0 1) (holding (encodeHeader (clseRow.header 1 2 0 1))))).map
        State.results = some ((holding []).results ++ [.corruptMessage ⟨false, true⟩]) := by decide
theorem witness_DispatchCallsOneHandler :
    (hosted 0).config.handlers.lookup hsMessage.command = some 1 ∧
      ∀ e ∈ (hosted 0).config.handlers, e.1 ≠ m3Message.command := by decide
/-- The last character with a byte, the first without, and the longest text that fits. -/
theorem witness_text_operands :
    ((∀ ch ∈ ([127] : Text), ch < 128) ∧ ([127] : Text).length + 1 < 2 ^ 32) ∧
      (∃ ch ∈ ([128] : Text), 128 ≤ ch) ∧
      ((∀ ch ∈ List.replicate (2 ^ 32 - 1) 0, ch < 128) ∧
        2 ^ 32 ≤ (List.replicate (2 ^ 32 - 1) 0).length + 1) := by
  refine ⟨by decide, ⟨128, by decide, le_rfl⟩, fun ch h => ?_, ?_⟩
  · rw [List.eq_of_mem_replicate h]; decide
  · rw [List.length_replicate]; decide
theorem witness_SendWritesWholeFrameOrNothing :
    ((hosted 6).config.maxPayload = some 6 ∧ hsMessage.payload.length > 6) ∧
      ((hosted 7).config.maxPayload = some 7 ∧ hsMessage.payload.length ≤ 7 ∧
        hsMessage.payload.length < 2 ^ 32) := by decide
/-- An SR.FEED that sets CORRUPT, one that sets OVERFLOW, and operations that meet the other
whole-machine hypotheses. -/
theorem witness_whole_machine_rules :
    left (.srFeed badCs) State.reset = some (27, true, false) ∧
      left (.srFeed hs) (bounded 30) = some (0, false, true) ∧
      (Instr.srStatus.wireHeader = none ∧ Instr.srStatus ≠ .srReset) ∧
      (nextOf (exec (.send m3Message) State.reset)).map State.tx = some m3 ∧
      (nextOf (exec (.dispatch m3Message) State.reset)).map State.calls =
        some [⟨.default, m3Message⟩] := by decide
/-- Instructions other than SR.RESET that take a frame off BUF: an operation, and a frame row with the
header that stands there. -/
theorem witness_SrResetIsTheOnlyWayBack :
    (Instr.frame m3Header).wireHeader = some (readHeader (holding m3).buf) ∧
      left (.frame m3Header) (holding m3) = some (0, false, false) ∧
      Instr.srFeed (m3.drop 10 ++ [0xde]) ≠ .srReset ∧
      (Instr.srFeed (m3.drop 10 ++ [0xde])).wireHeader = none ∧
      left (.srFeed (m3.drop 10 ++ [0xde])) (holding (m3.take 10)) = some (1, false, false) := by
  decide
/-- An operation, a frame and an arrival as the oldest request, and an incomplete boundary. -/
theorem witness_StepRunsDecodedInstruction :
    decode (.command 0b1001 Operands.zero) = .instr .srStatus ∧
      decode (.wire (holding m3).buf) = .instr (.frame m3Header) ∧
      ({ State.reset with pending := [.arrival m3] } : State).pending = [.arrival m3] ∧
      (holding (hs.take 23)).buf.length < 24 ∧ State.reset.pending = [] := by decide
/-- The state of `witness_invariants` meets the three invariants. -/
theorem witness_invariant_hypotheses :
    ({ bounded 51 with pending := [.op 0b0001 (.ofBytes (m3 ++ hs.take 5))] } : State).withinBufMax ∧
      ({ bounded 51 with pending := [.op 0b0001 (.ofBytes (m3 ++ hs.take 5))] } : State).atRest ∧
      ({ bounded 51 with
        pending := [.op 0b0001 (.ofBytes (m3 ++ hs.take 5))] } : State).messagesValid := by
  unfold State.atRest State.withinBufMax State.messagesValid
  exact ⟨fun n _ => Nat.zero_le n, by decide, fun r h => by cases h⟩
/-- A step that meets each invariant's hypotheses and changes BUF. -/
theorem witness_invariants :
    (nextOf (step { bounded 51 with pending := [.op 0b0001 (.ofBytes (m3 ++ hs.take 5))] })).map
      (fun t => (t.buf, t.results)) =
      some (hs.take 5, [.fed [m3Message] .needMoreData]) := by decide
/-- A block at rest with a frame request waiting takes its step. -/
theorem witness_BoundaryOfRestingBlockIsInert :
    (nextOf (step { holding badCs with corrupt := true, pending := [.boundary] })).map
      (fun t => (t.buf.length, t.corrupt, t.results)) =
      some (27, true, [.corruptMessage ⟨false, true⟩]) := by decide

end Sys2Proof.Tests
end

/-! Proofs for 00_scope.md: what a step does with the oldest request (R8), and why a frame row run
on a block at rest is inert (R26; log 2). -/

namespace Sys2Proof

/-! ### The header a frame instruction stands for -/

/-- A header that selects a named row is that row's, its open fields filled in (R92). -/
theorem KnownRow.header_of_selects {r : KnownRow} {h : Header} (hs : r.selects h = true) :
    r.header h.arg0 h.arg1 h.dataLength h.dataChecksum = h := by
  simp only [KnownRow.selects, Bool.and_eq_true, beq_iff_eq] at hs
  obtain ⟨hc, hm⟩ := hs
  rw [KnownRow.header, ← hc, ← hm]

/-- The row chosen for a header stands for that header. -/
theorem wireHeader_classify (h : Header) : (classify h).wireHeader = some h := by
  unfold classify
  split_ifs with h1 h2 h3 h4 h5 h6
  · exact congrArg some (KnownRow.header_of_selects h1)
  · exact congrArg some (KnownRow.header_of_selects h2)
  · exact congrArg some (KnownRow.header_of_selects h3)
  · exact congrArg some (KnownRow.header_of_selects h4)
  · exact congrArg some (KnownRow.header_of_selects h5)
  · exact congrArg some (KnownRow.header_of_selects h6)
  · rfl

namespace Machine

/-- Every HDR24 row is one pass of the loop on the header it stands for (R161; log 2). -/
theorem exec_of_wireHeader {i : Instr} {h : Header} (hi : i.wireHeader = some h) (s : State) :
    exec i s = .next (s.runFrame h) := by
  cases i <;> cases hi <;> rfl

/-! ### One pass of the loop on the frame at the head of BUF -/

/-- After a whole header, `MSG.DEC` is the decoding of what follows it (R134). -/
theorem decodeBody_readHeader {b : Bytes} (hl : 24 ≤ b.length) :
    decodeBody (readHeader b) (b.drop headerBytes) = msgDec b := by
  simp [msgDec, hdrDec, Nat.not_lt.2 hl]

theorem runFrame_of_overflow {s : State} (h : Header) (ho : s.overflow = true) :
    s.runFrame h = s.report .bufferOverflow := by
  simp [State.runFrame, ho]

theorem runFrame_of_needMoreData {s : State} (ho : s.overflow = false) (hl : 24 ≤ s.buf.length)
    (hd : msgDec s.buf = .needMoreData) :
    s.runFrame (readHeader s.buf) =
      ({ s with acc := accAfterBody s.acc (readHeader s.buf) (s.buf.drop 24) } : State).report
        .needMoreData := by
  simp [State.runFrame, ho, Nat.not_lt.2 hl, decodeBody_readHeader hl, hd]

theorem runFrame_of_corruptMessage {s : State} {c : Cause} (ho : s.overflow = false)
    (hl : 24 ≤ s.buf.length) (hd : msgDec s.buf = .corruptMessage c) :
    s.runFrame (readHeader s.buf) =
      (State.setCorrupt
        { s with acc := accAfterBody s.acc (readHeader s.buf) (s.buf.drop 24) }).report
        (.corruptMessage c) := by
  simp [State.runFrame, ho, Nat.not_lt.2 hl, decodeBody_readHeader hl, hd]

/-! ### A block at rest -/

/-- Only a whole header gets a verdict (R135). -/
theorem length_of_msgDec_ne_needMoreData {b : Bytes} (h : msgDec b ≠ .needMoreData) :
    24 ≤ b.length := by
  by_contra hl
  exact h (by rw [msgDec_cases, if_pos (Nat.lt_of_not_le hl)])

/-- No whole valid frame heads BUF. -/
theorem State.atRest.msgDec_ne_ok {s : State} (hr : s.atRest) (m : Message) (rest : Bytes) :
    msgDec s.buf ≠ .ok m rest := by
  intro hd
  have hl : 24 ≤ s.buf.length := length_of_msgDec_ne_needMoreData (by simp [hd])
  exact hr.1 (by simp [phase_eq, Nat.not_lt.2 hl, hd])

/-- A corrupt frame at the head of BUF has been noted. -/
theorem State.atRest.corrupt_of_msgDec {s : State} {c : Cause} (hr : s.atRest)
    (hd : msgDec s.buf = .corruptMessage c) : s.corrupt = true := by
  have hl : 24 ≤ s.buf.length := length_of_msgDec_ne_needMoreData (by simp [hd])
  exact hr.2.2 (by simp [phase_eq, Nat.not_lt.2 hl, hd])

/-- A pass on the head of BUF finds nothing to remove and no flag to set. -/
theorem State.atRest.runFrame_inert {s : State} (hr : s.atRest) (hl : 24 ≤ s.buf.length) :
    (s.runFrame (readHeader s.buf)).buf = s.buf ∧
      (s.runFrame (readHeader s.buf)).corrupt = s.corrupt ∧
      (s.runFrame (readHeader s.buf)).overflow = s.overflow := by
  cases ho : s.overflow with
  | true => simp [runFrame_of_overflow _ ho, ho]
  | false =>
    cases hd : msgDec s.buf with
    | ok m rest => exact absurd hd (hr.msgDec_ne_ok m rest)
    | needMoreData => simp [runFrame_of_needMoreData ho hl hd, ho]
    | corruptMessage c => simp [runFrame_of_corruptMessage ho hl hd, ho, hr.corrupt_of_msgDec hd]

/-- A frame boundary with no whole header behind it changes the results only (R88). -/
theorem runIncomplete_inert (s : State) :
    s.runIncomplete.buf = s.buf ∧ s.runIncomplete.corrupt = s.corrupt ∧
      s.runIncomplete.overflow = s.overflow := by
  unfold State.runIncomplete
  split <;> exact ⟨rfl, rfl, rfl⟩

/-! ### One step -/

/-- Nothing follows an operation that has run. -/
@[simp] theorem afterExec_op (sel : OpSel) (a : Operands) (o : Host.Outcome State Fault Refusal) :
    afterExec (.op sel a) o = o := by
  cases o <;> rfl

/-- Nothing follows a frame that has run. -/
@[simp] theorem afterExec_boundary (o : Host.Outcome State Fault Refusal) :
    afterExec .boundary o = o := by
  cases o <;> rfl

/-- The oldest request, once decoded, is taken off the queue and run (R8; log 1). -/
theorem step_of_decode {s : State} {r : Request} {rest : List Request} {i : Instr}
    (hp : s.pending = r :: rest) (hd : decode (r.packet s.buf) = .instr i) :
    step s = afterExec r (exec i { s with pending := rest }) := by
  simp [step, hp, hd]

/-- A boundary with a whole header behind it runs one pass of the loop on that header (log 2). -/
theorem step_boundary_of_header {s : State} {rest : List Request}
    (hp : s.pending = .boundary :: rest) (hl : 24 ≤ s.buf.length) :
    step s = .next (State.runFrame { s with pending := rest } (readHeader s.buf)) := by
  have hd : decode (Request.boundary.packet s.buf) = .instr (classify (readHeader s.buf)) :=
    if_neg (Nat.not_lt.2 hl)
  rw [step_of_decode hp hd, afterExec_boundary, exec_of_wireHeader (wireHeader_classify _)]

/-- A boundary without one answers as an incomplete encoding (R88). -/
theorem step_boundary_of_short {s : State} {rest : List Request}
    (hp : s.pending = .boundary :: rest) (hl : s.buf.length < 24) :
    step s = .next (State.runIncomplete { s with pending := rest }) := by
  have hd : decode (Request.boundary.packet s.buf) = .rejected .needMoreData := if_pos hl
  simp [step, hp, hd, rejectRequest]

/-! ### What SR.FEED leaves for the owner -/

@[simp] theorem State.feed_pending (s : State) (chunk : Bytes) :
    (s.feed chunk).pending = s.pending := by
  obtain ⟨-, h⟩ | ⟨-, -, h⟩ | ⟨-, -, h⟩ := feed_cases s chunk
  · simp [h]
  · simp [h]
  · simp [h, appendAndDrain_eq]

/-- An SR.FEED adds one answer, the pair of its messages and its outcome (R160). -/
theorem State.feed_results (s : State) (chunk : Bytes) :
    ∃ ms o, (s.feed chunk).results = s.results ++ [.fed ms o] := by
  obtain ⟨-, h⟩ | ⟨-, -, h⟩ | ⟨-, -, h⟩ := feed_cases s chunk
  · exact ⟨_, _, congrArg State.results h⟩
  · exact ⟨_, _, congrArg State.results h⟩
  · exact ⟨_, _, congrArg State.results (h.trans (appendAndDrain_eq s chunk))⟩

/-- The messages of the last answer are queued for DISPATCH before every other request (R195). -/
theorem scheduleDispatches_of_fed {t : State} {rs : List Result} {ms : List Message}
    {o : FeedOutcome} (hr : t.results = rs ++ [.fed ms o]) :
    t.scheduleDispatches = { t with pending := ms.map dispatchRequest ++ t.pending } := by
  simp [State.scheduleDispatches, hr, Result.messages]

/-- An arrival is SR.FEED, after which its messages are queued (R195; log 15). -/
theorem step_arrival {s : State} {chunk : Bytes} {rest : List Request}
    (hp : s.pending = .arrival chunk :: rest) :
    step s = .next (State.feed { s with pending := rest } chunk).scheduleDispatches :=
  step_of_decode hp rfl

/-! ### The statements -/

/-- Settles O47: at a boundary the block at rest either lacks a whole header or makes a pass that
finds nothing to remove. -/
theorem boundaryOfRestingBlockIsInert : Obligations.BoundaryOfRestingBlockIsInert := by
  intro s t rest hr hp ht
  obtain hl | hl := Nat.lt_or_ge s.buf.length 24
  · cases (step_boundary_of_short hp hl).symm.trans ht
    exact runIncomplete_inert _
  · have hr' : State.atRest { s with pending := rest } := hr
    cases (step_boundary_of_header hp hl).symm.trans ht
    exact hr'.runFrame_inert hl

/-- Settles O43, one clause for each kind of request. -/
theorem stepRunsDecodedInstruction : Obligations.StepRunsDecodedInstruction := by
  refine ⟨fun s sel a rest i hp hd => ?_, fun s rest i hp hd => ?_, fun s chunk rest hp => ?_⟩
  · rw [step_of_decode hp hd, afterExec_op]
  · rw [step_of_decode hp hd, afterExec_boundary]
  · obtain ⟨ms, o, hres⟩ := State.feed_results { s with pending := rest } chunk
    refine ⟨_, ms, o, rfl, hres, ?_⟩
    rw [step_arrival hp, scheduleDispatches_of_fed hres, State.feed_pending]
    rfl

/-- Settles O44: `step` has no other clause for an empty queue. -/
theorem idleBlockDoesNothing : Obligations.IdleBlockDoesNothing := by
  intro s hp
  simp [step, hp]

end Machine

end Sys2Proof

/-! Proofs for 10_state.md: the phase follows the decode attempt (R26), the status flags are sticky
(R28), what each instruction leaves of the block (R20, R24, R30), and why a block at rest stays at
rest. -/

namespace Sys2Proof.Machine

/-! ### The phase (R26) -/

/-- `MSG.DEC` asks for more exactly when the header or the payload is short (R135). -/
theorem msgDec_eq_needMoreData_iff (b : Bytes) :
    msgDec b = .needMoreData ↔ b.length < 24 ∨ b.length - 24 < (rd32 b 12).toNat := by
  have hn : rd32 b 12 = (readHeader b).dataLength := rfl
  rw [msgDec_cases, hn]
  split_ifs with hh hp
  · simp [hh]
  · simp [hp]
  · simp [hh, hp, judge_ne_needMoreData]

/-- The four phases, each with what `MSG.DEC` answers in it. -/
theorem phase_cases (b : Bytes) :
    (phase b = .waitHeader ∧ b.length < 24 ∧ msgDec b = .needMoreData) ∨
      (phase b = .waitPayload ∧ 24 ≤ b.length ∧ msgDec b = .needMoreData) ∨
      (phase b = .badFrame ∧ 24 ≤ b.length ∧ ∃ c, msgDec b = .corruptMessage c) ∨
      (phase b = .complete ∧ 24 ≤ b.length ∧ ∃ m rest, msgDec b = .ok m rest) := by
  rw [phase_eq]
  split_ifs with hl
  · exact .inl ⟨rfl, hl, (msgDec_eq_needMoreData_iff b).2 (.inl hl)⟩
  · cases msgDec b <;> simp [Nat.le_of_not_lt hl]

theorem phase_eq_badFrame_iff (b : Bytes) :
    phase b = .badFrame ↔ ∃ c, msgDec b = .corruptMessage c := by
  obtain ⟨hp, -, hd⟩ | ⟨hp, -, hd⟩ | ⟨hp, -, c, hd⟩ | ⟨hp, -, m, rest, hd⟩ := phase_cases b <;>
    simp [hp, hd]

theorem phase_eq_complete_iff (b : Bytes) :
    phase b = .complete ↔ ∃ m rest, msgDec b = .ok m rest := by
  obtain ⟨hp, -, hd⟩ | ⟨hp, -, hd⟩ | ⟨hp, -, c, hd⟩ | ⟨hp, -, m, rest, hd⟩ := phase_cases b <;>
    simp [hp, hd]

theorem phase_eq_waitHeader_iff (b : Bytes) : phase b = .waitHeader ↔ b.length < 24 := by
  obtain ⟨hp, hl, -⟩ | ⟨hp, hl, -⟩ | ⟨hp, hl, -⟩ | ⟨hp, hl, -⟩ := phase_cases b <;>
    simp [hp, hl]

theorem phase_eq_waitPayload_iff (b : Bytes) :
    phase b = .waitPayload ↔ 24 ≤ b.length ∧ msgDec b = .needMoreData := by
  obtain ⟨hp, hl, -⟩ | ⟨hp, hl, hd⟩ | ⟨hp, -, c, hd⟩ | ⟨hp, -, m, rest, hd⟩ := phase_cases b
  · simp [hp, hl]
  · simp [hp, hl, hd]
  · simp [hp, hd]
  · simp [hp, hd]

/-- Rest, told by one decode attempt on BUF. -/
theorem State.atRest_iff (s : State) :
    s.atRest ↔ (∀ m rest, msgDec s.buf ≠ .ok m rest) ∧
      (s.corrupt = true ↔ ∃ c, msgDec s.buf = .corruptMessage c) := by
  simp [State.atRest, phase_eq_complete_iff, phase_eq_badFrame_iff]

/-! ### What an instruction leaves of the block -/

/-- Two states agree on BUF, on STATUS and on the configuration (R20). -/
structure State.SameBlock (t s : State) : Prop where
  buf : t.buf = s.buf
  corrupt : t.corrupt = s.corrupt
  overflow : t.overflow = s.overflow
  config : t.config = s.config

theorem newMessage_sameBlock (s : State) (m : Message) : (s.newMessage m).SameBlock s := by
  unfold State.newMessage
  split <;> exact ⟨rfl, rfl, rfl, rfl⟩

theorem newTextMessage_sameBlock (s : State) (c a0 a1 : U32) (t : Text) :
    (s.newTextMessage c a0 a1 t).SameBlock s := by
  unfold State.newTextMessage
  split
  · exact ⟨rfl, rfl, rfl, rfl⟩
  · exact newMessage_sameBlock s _

/-- An operation of the codecs, of the host side, or one that reads STATUS or BUF_LEN, leaves the
block as it was. -/
theorem exec_sameBlock {i : Instr} {s t : State} (h : exec i s = .next t)
    (hw : i.wireHeader = none) (hr : i ≠ .srReset) (hf : ∀ c, i ≠ .srFeed c) : t.SameBlock s := by
  cases i with
  | frame | cnxn | opn | okay | clse | wrte | sync => cases hw
  | srReset => exact absurd rfl hr
  | srFeed c => exact absurd rfl (hf c)
  | hdrEnc | csum | magic | srStatus | srBuflen | dispatch => cases h; exact ⟨rfl, rfl, rfl, rfl⟩
  | hdrDec =>
    simp only [exec, execHdrDec] at h
    split at h <;> cases h <;> exact ⟨rfl, rfl, rfl, rfl⟩
  | msgNew => cases h; exact newMessage_sameBlock s _
  | msgEnc =>
    simp only [exec, execMsgEnc] at h
    split at h <;> cases h <;> exact ⟨rfl, rfl, rfl, rfl⟩
  | msgDec =>
    simp only [exec, execMsgDec] at h
    split at h <;> cases h <;> exact ⟨rfl, rfl, rfl, rfl⟩
  | buildConnect => cases h; exact newTextMessage_sameBlock s _ _ _ _
  | buildCommand => cases h; exact newTextMessage_sameBlock s _ _ _ _
  | send =>
    simp only [exec, execSend] at h
    split at h
    · cases h; exact ⟨rfl, rfl, rfl, rfl⟩
    · split at h <;> cases h <;> exact ⟨rfl, rfl, rfl, rfl⟩

/-- What an instruction can do to the block: SR.RESET, SR.FEED, one pass of the loop, or nothing. -/
theorem exec_cases {i : Instr} {s t : State} (h : exec i s = .next t) :
    (i = .srReset ∧ t = s.clear.report .done) ∨
      (∃ c, i = .srFeed c ∧ t = s.feed c) ∨
      (∃ hd, i.wireHeader = some hd ∧ t = s.runFrame hd) ∨
      t.SameBlock s := by
  by_cases hr : i = .srReset
  · subst hr; cases h; exact .inl ⟨rfl, rfl⟩
  by_cases hf : ∃ c, i = .srFeed c
  · obtain ⟨c, rfl⟩ := hf
    cases h; exact .inr (.inl ⟨c, rfl, rfl⟩)
  cases hw : i.wireHeader with
  | some hd =>
    cases (exec_of_wireHeader hw s).symm.trans h
    exact .inr (.inr (.inl ⟨hd, rfl, rfl⟩))
  | none => exact .inr (.inr (.inr (exec_sameBlock h hw hr (not_exists.1 hf))))

/-! ### The flags and the configuration under SR.FEED and under a frame -/

/-- What one pass of the loop can do: note an answer, drop a frame, or set CORRUPT (R161). -/
theorem runFrame_cases (s : State) (h : Header) :
    ∃ a r, s.runFrame h = ({ s with acc := a } : State).report r ∨
      (∃ n, s.runFrame h = (({ s with acc := a } : State).bufDrop n).report r) ∨
      s.runFrame h = ({ s with acc := a } : State).setCorrupt.report r := by
  unfold State.runFrame
  split
  · exact ⟨s.acc, _, .inl rfl⟩
  split
  · exact ⟨s.acc, _, .inl rfl⟩
  dsimp only
  split
  · exact ⟨_, _, .inl rfl⟩
  · exact ⟨_, _, .inr (.inl ⟨_, rfl⟩)⟩
  · exact ⟨_, _, .inr (.inr rfl)⟩

@[simp] theorem State.runFrame_overflow (s : State) (h : Header) :
    (s.runFrame h).overflow = s.overflow := by
  obtain ⟨a, r, e | ⟨n, e⟩ | e⟩ := runFrame_cases s h <;> simp [e]

@[simp] theorem State.runFrame_config (s : State) (h : Header) :
    (s.runFrame h).config = s.config := by
  obtain ⟨a, r, e | ⟨n, e⟩ | e⟩ := runFrame_cases s h <;> simp [e]

theorem State.runFrame_keeps_corrupt {s : State} (h : Header) (hc : s.corrupt = true) :
    (s.runFrame h).corrupt = true := by
  obtain ⟨a, r, e | ⟨n, e⟩ | e⟩ := runFrame_cases s h <;> simp [e, hc]

@[simp] theorem State.feed_config (s : State) (chunk : Bytes) :
    (s.feed chunk).config = s.config := by
  obtain ⟨-, e⟩ | ⟨-, -, e⟩ | ⟨-, -, e⟩ := feed_cases s chunk
  · simp [e]
  · simp [e]
  · simp [e, appendAndDrain_eq]

theorem State.feed_keeps_corrupt {s : State} (chunk : Bytes) (hc : s.corrupt = true) :
    (s.feed chunk).corrupt = true := by
  obtain ⟨-, e⟩ | ⟨-, -, e⟩ | ⟨-, -, e⟩ := feed_cases s chunk
  · simp [e, hc]
  · simp [e, hc]
  · simp [e, appendAndDrain_eq, hc]

theorem State.feed_keeps_overflow {s : State} (chunk : Bytes) (ho : s.overflow = true) :
    (s.feed chunk).overflow = true := by
  rw [feed_of_overflow chunk ho, State.report_overflow, ho]

/-! ### The decode loop and rest -/

/-- The loop stops at the first frame without a message, and its outcome is what `MSG.DEC` answers
on the BUF it leaves (R160 step 4). -/
theorem drain_stop (b : Bytes) (acc : U32) :
    ((drain b acc).outcome = .needMoreData ∧ msgDec (drain b acc).buf = .needMoreData) ∨
      ∃ c, (drain b acc).outcome = .corruptMessage c ∧
        msgDec (drain b acc).buf = .corruptMessage c := by
  induction hn : b.length using Nat.strong_induction_on generalizing b acc with
  | _ n ih =>
    subst hn
    rw [drain_step]
    cases hd : msgDec b with
    | ok m rest => exact ih rest.length (by have := msgDec_ok_length hd; omega) rest _ rfl
    | needMoreData => exact .inl ⟨rfl, hd⟩
    | corruptMessage c => exact .inr ⟨c, rfl, hd⟩

/-- A corrupt frame at the head of the bytes stops the loop at once (R163). -/
theorem drain_of_corruptMessage {b : Bytes} {c : Cause} (acc : U32)
    (hd : msgDec b = .corruptMessage c) :
    drain b acc = ⟨[], b, accAfterDec acc b, .corruptMessage c⟩ := by
  rw [drain_step, hd]

/-- A corrupt frame stays corrupt, for the same cause, when bytes follow it (R162, R163). -/
theorem msgDec_append_of_corruptMessage {b : Bytes} {c : Cause} (t : Bytes)
    (hd : msgDec b = .corruptMessage c) : msgDec (b ++ t) = .corruptMessage c := by
  rw [msgDec_append t (by simp [hd]), hd]

/-- Rest is a matter of BUF and CORRUPT alone. -/
theorem State.atRest.of_eq {s t : State} (hr : s.atRest) (hb : t.buf = s.buf)
    (hc : t.corrupt = s.corrupt) : t.atRest := by
  simpa only [State.atRest, hb, hc] using hr

/-- With BUF empty, rest is CORRUPT = 0. -/
theorem State.atRest_of_empty {s : State} (hb : s.buf = []) (hc : s.corrupt = false) :
    s.atRest := by
  have hp : phase [] = .waitHeader := rfl
  simp [State.atRest, hb, hc, hp]

/-- The loop leaves a block at rest: when it ends waiting, no corrupt frame headed BUF before the
chunk, so that CORRUPT was 0 and still is. -/
theorem State.atRest.appendAndDrain {s : State} (hr : s.atRest) (chunk : Bytes) :
    (s.appendAndDrain chunk).atRest := by
  rw [State.atRest_iff, appendAndDrain_eq]
  obtain ⟨ho, hd⟩ | ⟨c, ho, hd⟩ := drain_stop (s.buf ++ chunk) s.acc
  · have hc : s.corrupt = false := by
      by_contra hc
      obtain ⟨c, hd'⟩ := ((State.atRest_iff s).1 hr).2.1 (by simpa using hc)
      have he := drain_of_corruptMessage s.acc (msgDec_append_of_corruptMessage chunk hd')
      simp [he] at ho
    simp [ho, hd, hc]
  · simp [ho, hd]

theorem State.atRest.feed {s : State} (hr : s.atRest) (chunk : Bytes) :
    (s.feed chunk).atRest := by
  obtain ⟨-, e⟩ | ⟨-, -, e⟩ | ⟨-, -, e⟩ := feed_cases s chunk <;> rw [e]
  · exact hr.of_eq rfl rfl
  · exact hr.of_eq rfl rfl
  · exact hr.appendAndDrain chunk

/-! ### One step -/

/-- A selector never decodes to a frame (R91). -/
theorem wireHeader_of_decode_command {sel : OpSel} {a : Operands} {i : Instr}
    (h : decode (.command sel a) = .instr i) : i.wireHeader = none := by
  simp only [decode, decodeCommand] at h
  split at h <;> cases h <;> rfl

/-- What a step can do: nothing with no request, else the decoded instruction and what follows it,
or the answer to an incomplete header (R8, R88). -/
theorem step_cases {s t : State} (h : step s = .next t) :
    (s.pending = [] ∧ t = s) ∨
      ∃ r rest, s.pending = r :: rest ∧
        ((∃ i u, decode (r.packet s.buf) = .instr i ∧
            exec i { s with pending := rest } = .next u ∧ t = u.settle r) ∨
          t = State.runIncomplete { s with pending := rest }) := by
  cases hp : s.pending with
  | nil => simp only [step, hp] at h; cases h; exact .inl ⟨rfl, rfl⟩
  | cons r rest =>
    refine .inr ⟨r, rest, rfl, ?_⟩
    cases hd : decode (r.packet s.buf) with
    | instr i =>
      rw [step_of_decode hp hd] at h
      cases he : exec i { s with pending := rest } with
      | next u => rw [he] at h; cases h; exact .inl ⟨i, u, rfl, he, rfl⟩
      | fault f => rw [he] at h; cases h
      | refused q => rw [he] at h; cases h
    | rejected e =>
      simp only [step, hp, hd] at h
      cases e with
      | needMoreData => cases h; exact .inr rfl
      | unassignedOpsel => cases h

theorem runIncomplete_config (s : State) : s.runIncomplete.config = s.config := by
  unfold State.runIncomplete
  split <;> rfl

theorem exec_config {i : Instr} {s t : State} (h : exec i s = .next t) :
    t.config = s.config := by
  obtain ⟨-, rfl⟩ | ⟨c, -, rfl⟩ | ⟨hd, -, rfl⟩ | hs := exec_cases h
  · rfl
  · exact s.feed_config c
  · exact s.runFrame_config hd
  · exact hs.config

/-- An operation, and an arrival's SR.FEED, keep a block at rest: neither runs a frame. -/
theorem State.atRest.of_exec {i : Instr} {s t : State} (hr : s.atRest) (hw : i.wireHeader = none)
    (h : exec i s = .next t) : t.atRest := by
  obtain ⟨-, rfl⟩ | ⟨c, -, rfl⟩ | ⟨hd, hi, -⟩ | hs := exec_cases h
  · exact State.atRest_of_empty rfl rfl
  · exact hr.feed c
  · rw [hw] at hi; cases hi
  · exact hr.of_eq hs.buf hs.corrupt

/-! ### The statements -/

/-- Settles O49: by what a step can do. A frame at the boundary of a block at rest is inert, every
other request keeps rest through its instruction. -/
theorem restIsKept : Obligations.RestIsKept := by
  intro s t hr h
  obtain ⟨-, rfl⟩ | ⟨r, rest, hp, ⟨i, u, hd, he, rfl⟩ | rfl⟩ := step_cases h
  · exact hr
  · have hr' : State.atRest { s with pending := rest } := hr
    cases r with
    | op sel a => exact hr'.of_exec (wireHeader_of_decode_command hd) he
    | arrival chunk =>
      exact (hr'.of_exec (wireHeader_of_decode_command hd) he).of_eq (u.settle_buf _)
        (u.settle_corrupt _)
    | boundary =>
      obtain ⟨hb, hc, -⟩ := boundaryOfRestingBlockIsInert s _ rest hr hp h
      exact hr.of_eq hb hc
  · obtain ⟨hb, hc, -⟩ := runIncomplete_inert { s with pending := rest }
    exact hr.of_eq hb hc

/-- Settles O22, one lemma for each phase. -/
theorem phaseFollowsBuf : Obligations.PhaseFollowsBuf := by
  intro b
  refine ⟨phase_eq_waitHeader_iff b, ?_, phase_eq_badFrame_iff b, phase_eq_complete_iff b⟩
  rw [phase_eq_waitPayload_iff, msgDec_eq_needMoreData_iff]
  omega

/-- Settles O39: SR.FEED and a frame keep a flag that is 1, and of the two only SR.FEED can set
OVERFLOW. -/
theorem statusFlagsAreSticky : Obligations.StatusFlagsAreSticky := by
  intro i s t h
  obtain ⟨rfl, rfl⟩ | ⟨c, rfl, rfl⟩ | ⟨hd, hi, rfl⟩ | hs := exec_cases h
  · simp
  · exact ⟨fun _ => ⟨State.feed_keeps_corrupt c, State.feed_keeps_overflow c⟩,
      fun _ _ => .inl ⟨c, rfl⟩, fun _ _ => ⟨c, rfl⟩⟩
  · refine ⟨fun _ => ⟨State.runFrame_keeps_corrupt hd, fun ho => ?_⟩,
      fun _ _ => .inr (by simp [hi]), fun h0 h1 => ?_⟩
    · rw [State.runFrame_overflow, ho]
    · simp [h0] at h1
  · simp +contextual [hs.corrupt, hs.overflow]

/-- Settles O40, by the frame rule of the other instructions. -/
theorem onlyFeedResetAndFramesChangeTheBlock :
    Obligations.OnlyFeedResetAndFramesChangeTheBlock := by
  intro i s t h hw hr hf
  have hs := exec_sameBlock h hw hr hf
  exact ⟨hs.buf, hs.corrupt, hs.overflow⟩

/-- Settles O41, by what a step can do. -/
theorem configurationNeverChanges : Obligations.ConfigurationNeverChanges := by
  intro s t h
  obtain ⟨-, rfl⟩ | ⟨r, rest, -, ⟨i, u, -, he, rfl⟩ | rfl⟩ := step_cases h
  · rfl
  · rw [State.settle_config, exec_config he]
  · exact runIncomplete_config _

/-- Settles O24: `clear` writes the values of `create` and keeps the configuration. -/
theorem creationStateIsResetState : Obligations.CreationStateIsResetState := by
  intro c
  refine ⟨rfl, rfl, rfl, rfl, rfl, rfl, rfl, rfl, fun s => ?_⟩
  exact ⟨s.clear.report .done, rfl, rfl, rfl, rfl, rfl, rfl⟩

/-- At creation BUF and the results are empty, so that nothing can break an invariant. -/
theorem create_meets_invariants (c : Config) :
    (State.create c).withinBufMax ∧ (State.create c).atRest ∧ (State.create c).messagesValid := by
  refine ⟨fun n _ => Nat.zero_le n, State.atRest_of_empty rfl rfl, fun r hr => ?_⟩
  simp at hr

/-- Settles O51: reset is creation with the minimal configuration. -/
theorem creationMeetsInvariants : Obligations.CreationMeetsInvariants :=
  ⟨create_meets_invariants, create_meets_invariants Config.minimal⟩

end Sys2Proof.Machine

/-! Proofs for 20_memory.md: BUF stays within BUF_MAX (R64), because only SR.FEED lengthens it and
checks the limit before it appends. -/

namespace Sys2Proof.Machine

/-! ### What can lengthen BUF -/

/-- The decode loop only takes frames off the front (R168). -/
theorem drain_buf_length_le (b : Bytes) (acc : U32) : (drain b acc).buf.length ≤ b.length := by
  induction hn : b.length using Nat.strong_induction_on generalizing b acc with
  | _ n ih =>
    subst hn
    rw [drain_step]
    cases hd : msgDec b with
    | ok m rest =>
      have hl := msgDec_ok_length hd
      have hr : (drain rest (accAfterDec acc b)).buf.length ≤ rest.length :=
        ih rest.length (by omega) rest _ rfl
      exact hr.trans (by omega)
    | needMoreData => exact le_rfl
    | corruptMessage c => exact le_rfl

theorem appendAndDrain_buf_length_le (s : State) (chunk : Bytes) :
    (s.appendAndDrain chunk).buf.length ≤ s.buf.length + chunk.length := by
  rw [appendAndDrain_eq, ← List.length_append]
  exact drain_buf_length_le (s.buf ++ chunk) s.acc

theorem runFrame_buf_length_le (s : State) (h : Header) :
    (s.runFrame h).buf.length ≤ s.buf.length := by
  obtain ⟨a, r, e | ⟨n, e⟩ | e⟩ := runFrame_cases s h <;> simp [e]

/-! ### The bound -/

/-- The bound speaks of the configuration and BUF alone, and a shorter BUF keeps it. -/
theorem State.withinBufMax.of_length_le {s t : State} (hw : s.withinBufMax)
    (hc : t.config = s.config) (hl : t.buf.length ≤ s.buf.length) : t.withinBufMax :=
  fun n hn => hl.trans (hw n (hc ▸ hn))

/-- A chunk that would exceed BUF_MAX is not stored, and the loop removes bytes only (R160). -/
theorem State.withinBufMax.feed {s : State} (hw : s.withinBufMax) (chunk : Bytes) :
    (s.feed chunk).withinBufMax := by
  obtain ⟨-, e⟩ | ⟨-, -, e⟩ | ⟨-, hfit, e⟩ := feed_cases s chunk
  · rw [e]; exact hw.of_length_le rfl le_rfl
  · rw [e]; exact hw.of_length_le rfl le_rfl
  · intro n hn
    rw [s.feed_config] at hn
    rw [e]
    exact (appendAndDrain_buf_length_le s chunk).trans (exceeds_eq_false.1 hfit n hn)

theorem State.withinBufMax.of_exec {i : Instr} {s t : State} (hw : s.withinBufMax)
    (h : exec i s = .next t) : t.withinBufMax := by
  obtain ⟨-, rfl⟩ | ⟨chunk, -, rfl⟩ | ⟨hd, -, rfl⟩ | hs := exec_cases h
  · exact hw.of_length_le rfl (Nat.zero_le _)
  · exact hw.feed chunk
  · exact hw.of_length_le (s.runFrame_config hd) (runFrame_buf_length_le s hd)
  · exact hw.of_length_le hs.config (congrArg List.length hs.buf).le

/-! ### The statement -/

/-- Settles O48, by what a step can do: the decoded instruction keeps the bound, and what comes
before and after it leaves BUF and the configuration. -/
theorem bufMaxIsKept : Obligations.BufMaxIsKept := by
  intro s t hw h
  obtain ⟨-, rfl⟩ | ⟨r, rest, -, ⟨i, u, -, he, rfl⟩ | rfl⟩ := step_cases h
  · exact hw
  · have hw' : State.withinBufMax { s with pending := rest } := hw
    exact (hw'.of_exec he).of_length_le (u.settle_config r)
      (congrArg List.length (u.settle_buf r)).le
  · obtain ⟨hb, -, -⟩ := runIncomplete_inert { s with pending := rest }
    exact hw.of_length_le (runIncomplete_config _) (congrArg List.length hb).le

end Sys2Proof.Machine

/-! Proofs for 30_encoding.md: each encoding is read back (R81, R82, R91, R92), a frame's command
value decides nothing (R85 to R87), and what a step refuses (R88, R91). -/

namespace Sys2Proof

/-! ### Reading an encoding back (R81, R91) -/

/-- The 24 bytes of a header are read as the row of that header. -/
theorem decode_encodeHeader (h : Header) :
    decode (.wire (encodeHeader h)) = .instr (classify h) := by
  have hr : readHeader (encodeHeader h) = h := by simpa using readHeader_encodeHeader h []
  simp [decode, decodeWire, hr]

/-! A header with a named row's fixed bits is given that row: the six commands differ, so that no
row hides a later one (R85, R92). -/

theorem classify_cnxnRow (a b c d : U32) : classify (cnxnRow.header a b c d) = .cnxn a b c d := rfl
theorem classify_openRow (a b c d : U32) : classify (openRow.header a b c d) = .opn a b c d := rfl
theorem classify_okayRow (a b c d : U32) : classify (okayRow.header a b c d) = .okay a b c d := rfl
theorem classify_clseRow (a b c d : U32) : classify (clseRow.header a b c d) = .clse a b c d := rfl
theorem classify_wrteRow (a b c d : U32) : classify (wrteRow.header a b c d) = .wrte a b c d := rfl
theorem classify_syncRow (a b c d : U32) : classify (syncRow.header a b c d) = .sync a b c d := rfl

/-- A well-formed frame instruction is the row of the header it stands for. -/
theorem classify_of_wireHeader {i : Instr} {h : Header} (hi : i.wireHeader = some h)
    (hw : i.wellFormed = true) : classify h = i := by
  cases i with
  | frame k => cases hi; simpa [Instr.wellFormed] using hw
  | cnxn | opn | okay | clse | wrte | sync => cases hi; rfl
  | srReset | srFeed | hdrEnc | hdrDec | csum | magic | msgNew | msgEnc | msgDec | srStatus
  | srBuflen | dispatch | buildConnect | buildCommand | send => cases hi

/-- A frame instruction is encoded as the bytes of the header it stands for (R81). -/
theorem encode_of_wireHeader {i : Instr} {h : Header} (hi : i.wireHeader = some h) :
    encode i = .wire (encodeHeader h) := by
  cases i <;> cases hi <;> rfl

/-- An operation is read back from its selector and its operand port (R91; log 8). -/
theorem decode_encode_operation {i : Instr} (hi : i.wireHeader = none) :
    decode (encode i) = .instr i := by
  cases i with
  | frame | cnxn | opn | okay | clse | wrte | sync => cases hi
  | srReset | srFeed | hdrEnc | hdrDec | csum | magic | msgNew | msgEnc | msgDec | srStatus
  | srBuflen | dispatch | buildConnect | buildCommand | send => rfl

/-- Settles O1: a frame goes through its header, an operation through its selector. -/
theorem decodeEncodeRoundTrip : Obligations.DecodeEncodeRoundTrip := by
  intro i hw
  cases hi : i.wireHeader with
  | none => exact decode_encode_operation hi
  | some h => rw [encode_of_wireHeader hi, decode_encodeHeader, classify_of_wireHeader hi hw]

/-! ### The bits that select a named row (R92) -/

/-- A field of a table word, read at its byte offset, is that 32-bit digit of the number (R81). -/
theorem rd32_wordBytes_toNat (w : Nat) {off : Nat} (hoff : off + 4 ≤ 24) :
    (rd32 (wordBytes w) off).toNat = w / 2 ^ (8 * off) % 2 ^ 32 := by
  have hbyte (k : Nat) (hk : off + k < 24) :
      ((wordBytes w).getD (off + k) 0).toNat = w / 2 ^ (8 * off) / 2 ^ (8 * k) % 2 ^ 8 := by
    simp [wordBytes, List.getD_eq_getElem?_getD, hk, Nat.mul_add, Nat.pow_add,
      Nat.div_div_eq_div_mul]
  have h0 : ((wordBytes w).getD off 0).toNat = _ := hbyte 0 (by omega)
  have h1 := hbyte 1 (by omega)
  have h2 := hbyte 2 (by omega)
  have h3 := hbyte 3 (by omega)
  rw [rd32_toNat, h0, h1, h2, h3]
  generalize w / 2 ^ (8 * off) = x
  omega

/-- The mask of the named rows keeps the lowest and the highest 32 bits of a 192-bit word. -/
theorem and_rowMask {w : Nat} (hw : w < 2 ^ 192) :
    w &&& 0xffffffff00000000000000000000000000000000ffffffff =
      w / 2 ^ 160 * 2 ^ 160 + w % 2 ^ 32 := by
  have hhigh : (w &&& 0xffffffff00000000000000000000000000000000ffffffff) / 2 ^ 160 =
      w / 2 ^ 160 % 2 ^ 32 := by
    rw [Nat.and_div_two_pow]
    exact Nat.and_two_pow_sub_one_eq_mod _ 32
  have hlow : (w &&& 0xffffffff00000000000000000000000000000000ffffffff) % 2 ^ 160 =
      w % 2 ^ 160 % 2 ^ 32 := by
    rw [Nat.and_mod_two_pow]
    exact Nat.and_two_pow_sub_one_eq_mod _ 32
  omega

/-- The match value of a named row: its magic in bits 191:160, its command in bits 31:0 (R92). -/
def KnownRow.matchBits (r : KnownRow) : Nat :=
  r.magic.toNat * 2 ^ 160 + r.command.toNat

/-- A row selects the header of a table word exactly when `h AND mask == match` (R92). -/
theorem KnownRow.selects_wordBytes_iff (r : KnownRow) {w : Nat} (hw : w < 2 ^ 192) :
    r.selects (readHeader (wordBytes w)) = true ↔
      w &&& 0xffffffff00000000000000000000000000000000ffffffff = r.matchBits := by
  have hcommand : (rd32 (wordBytes w) 0).toNat = w % 2 ^ 32 := by
    simpa using rd32_wordBytes_toNat w (off := 0) (by omega)
  have hmagic : (rd32 (wordBytes w) 20).toNat = w / 2 ^ 160 % 2 ^ 32 :=
    rd32_wordBytes_toNat w (off := 20) (by omega)
  have hc := r.command.isLt
  have hm := r.magic.isLt
  rw [and_rowMask hw, KnownRow.selects, Bool.and_eq_true, beq_iff_eq, beq_iff_eq,
    ← BitVec.toNat_inj, ← BitVec.toNat_inj, matchBits]
  simp only [readHeader, hcommand, hmagic]
  omega

/-- A header is given a named row exactly when the row selects it. -/
theorem KnownRow.exists_classify_eq_iff {r : KnownRow} {f : U32 → U32 → U32 → U32 → Instr}
    (hf : ∀ a b c d, (f a b c d).wireHeader = some (r.header a b c d))
    (hr : ∀ a b c d, classify (r.header a b c d) = f a b c d) (h : Header) :
    (∃ a b c d, classify h = f a b c d) ↔ r.selects h = true := by
  constructor
  · rintro ⟨a, b, c, d, he⟩
    have hh : h = r.header a b c d :=
      Option.some.inj ((wireHeader_classify h).symm.trans ((congrArg _ he).trans (hf a b c d)))
    simp [hh, KnownRow.selects, KnownRow.header]
  · intro hs
    exact ⟨_, _, _, _, (congrArg classify (KnownRow.header_of_selects hs)).symm.trans (hr _ _ _ _)⟩

/-- A header is given FRAME exactly when no named row selects it (log 12). -/
theorem exists_classify_eq_frame_iff (h : Header) :
    (∃ k, classify h = .frame k) ↔
      ∀ r ∈ [cnxnRow, openRow, okayRow, clseRow, wrteRow, syncRow], r.selects h = false := by
  unfold classify
  split_ifs <;> simp_all

/-- A 192-bit table word is read as the row of its header. -/
theorem decodeTableWord_header (w : Nat) :
    decodeTableWord 192 w = some (classify (readHeader (wordBytes w))) := by
  have hl : (wordBytes w).length = 24 := by simp [wordBytes]
  simp [decodeTableWord, tablePacket, decode, decodeWire, hl]

/-- The decoder reads a named row from a table word exactly when `h AND mask == match` (R92). -/
theorem KnownRow.exists_decodeTableWord_iff {r : KnownRow} {f : U32 → U32 → U32 → U32 → Instr}
    (hf : ∀ a b c d, (f a b c d).wireHeader = some (r.header a b c d))
    (hr : ∀ a b c d, classify (r.header a b c d) = f a b c d) {w : Nat} (hw : w < 2 ^ 192) :
    (∃ a b c d, decodeTableWord 192 w = some (f a b c d)) ↔
      w &&& 0xffffffff00000000000000000000000000000000ffffffff = r.matchBits := by
  simp only [decodeTableWord_header, Option.some.injEq]
  rw [KnownRow.exists_classify_eq_iff hf hr, r.selects_wordBytes_iff hw]

/-- Settles O2: the decoder reads the row that selects the word's header, and `selects` compares
exactly the masked bits. -/
theorem namedRowsMatchTheirBits : Obligations.NamedRowsMatchTheirBits := by
  intro w hw
  refine ⟨KnownRow.exists_decodeTableWord_iff (fun _ _ _ _ => rfl) classify_cnxnRow hw,
    KnownRow.exists_decodeTableWord_iff (fun _ _ _ _ => rfl) classify_openRow hw,
    KnownRow.exists_decodeTableWord_iff (fun _ _ _ _ => rfl) classify_okayRow hw,
    KnownRow.exists_decodeTableWord_iff (fun _ _ _ _ => rfl) classify_clseRow hw,
    KnownRow.exists_decodeTableWord_iff (fun _ _ _ _ => rfl) classify_wrteRow hw,
    KnownRow.exists_decodeTableWord_iff (fun _ _ _ _ => rfl) classify_syncRow hw, ?_⟩
  simp only [decodeTableWord_header, Option.some.injEq, exists_classify_eq_frame_iff,
    ← Bool.not_eq_true, KnownRow.selects_wordBytes_iff _ hw]
  simp [KnownRow.matchBits, cnxnRow, openRow, okayRow, clseRow, wrteRow, syncRow]

namespace Machine

/-! ### What a frame's command value decides (R85 to R87) -/

/-- The answer of one pass of the loop to a decode attempt whose frame takes `n` bytes (R161). -/
def State.noteVerdict (s : State) (n : Nat) : DecodeResult → State
  | .needMoreData => s.report .needMoreData
  | .ok m _ => (s.bufDrop n).report (.message m)
  | .corruptMessage c => s.setCorrupt.report (.corruptMessage c)

/-- An overflowed block, and one with no whole header, do not look at the header (logs 2, 16). -/
theorem runFrame_of_undecoded {s : State} (h : Header)
    (hu : s.overflow = true ∨ s.buf.length < 24) : s.runFrame h = s.runIncomplete := by
  cases ho : s.overflow
  · simp [State.runFrame, State.runIncomplete, ho, hu.resolve_left (by simp [ho])]
  · simp [State.runFrame, State.runIncomplete, ho]

/-- Any other block decodes what follows the header and answers the verdict (R134, R161). -/
theorem runFrame_of_decoded {s : State} (h : Header) (ho : s.overflow = false)
    (hl : 24 ≤ s.buf.length) :
    s.runFrame h =
      State.noteVerdict { s with acc := accAfterBody s.acc h (s.buf.drop 24) }
        (24 + h.dataLength.toNat) (decodeBody h (s.buf.drop 24)) := by
  simp only [State.runFrame, ho, headerBytes, Nat.not_lt.2 hl, Bool.false_eq_true, if_false]
  cases decodeBody h (s.buf.drop 24) <;> rfl

/-- The causes of a corrupt frame are the two comparisons, and one of them failed (R134). -/
theorem cause_of_decodeBody {h : Header} {after : Bytes} {c : Cause}
    (hd : decodeBody h after = .corruptMessage c) :
    c.magicBad = (h.magic != magicOf h.command) ∧ (c.magicBad || c.csumBad) = true := by
  unfold decodeBody at hd
  split at hd
  · cases hd
  · simp only [judge] at hd
    split at hd
    · cases hd; exact ⟨rfl, ‹_›⟩
    · cases hd

/-- A frame answers CorruptMessage only with the cause that its decoding found. -/
theorem decodeBody_of_runFrame_corrupt {s : State} {h : Header} {c : Cause}
    (hr : (s.runFrame h).results = s.results ++ [.corruptMessage c]) :
    decodeBody h (s.buf.drop 24) = .corruptMessage c := by
  by_cases hu : s.overflow = true ∨ s.buf.length < 24
  · rw [runFrame_of_undecoded h hu, State.runIncomplete] at hr
    split at hr <;> simp at hr
  · obtain ⟨ho, hl⟩ := by simpa using hu
    rw [runFrame_of_decoded h ho hl] at hr
    cases hd : decodeBody h (s.buf.drop 24) with
    | ok m rest => simp [hd, State.noteVerdict] at hr
    | needMoreData => simp [hd, State.noteVerdict] at hr
    | corruptMessage e => simpa [hd, State.noteVerdict] using hr

/-- A named row fixes the magic to the complement of its command (R85). -/
theorem magic_of_named_row {i : Instr} {h : Header} (hi : i.wireHeader = some h)
    (hn : ∀ k, i ≠ .frame k) : h.magic = magicOf h.command := by
  cases i with
  | frame k => exact absurd rfl (hn k)
  | cnxn | opn | okay | clse | wrte | sync =>
    cases hi
    simp only [KnownRow.header]
    decide
  | srReset | srFeed | hdrEnc | hdrDec | csum | magic | msgNew | msgEnc | msgDec | srStatus
  | srBuflen | dispatch | buildConnect | buildCommand | send => cases hi

/-- Settles O29: the row's magic passes, so that the checksum is the comparison that failed. -/
theorem namedFramesNeverFailMagic : Obligations.NamedFramesNeverFailMagic := by
  intro i s t c hw hn ht hres
  obtain ⟨h, hi⟩ := Option.ne_none_iff_exists'.1 hw
  cases (exec_of_wireHeader hi s).symm.trans ht
  obtain ⟨hmagic, hbad⟩ := cause_of_decodeBody (decodeBody_of_runFrame_corrupt hres)
  obtain ⟨m, k⟩ := c
  have hm : m = false := by simpa [magic_of_named_row hi hn] using hmagic
  have hk : k = true := by simpa [hm] using hbad
  rw [hm, hk]

/-- A verdict with another command in its message. -/
def DecodeResult.withCommand (c : U32) : DecodeResult → DecodeResult
  | .ok m rest => .ok { m with command := c } rest
  | .needMoreData => .needMoreData
  | .corruptMessage e => .corruptMessage e

/-- Two headers that agree but for the command, and for a magic that is right in both or wrong in
both (R86). -/
structure SameButCommand (h k : Header) : Prop where
  arg0 : k.arg0 = h.arg0
  arg1 : k.arg1 = h.arg1
  dataLength : k.dataLength = h.dataLength
  dataChecksum : k.dataChecksum = h.dataChecksum
  magic : k.magic = magicOf k.command ↔ h.magic = magicOf h.command

/-- Both comparisons come out the same, and the message is the same but for its command (R134). -/
theorem SameButCommand.judge {h k : Header} (hs : SameButCommand h k) (p rest : Bytes) :
    judge k p rest = (judge h p rest).withCommand k.command := by
  have hm : (k.magic != magicOf k.command) = (h.magic != magicOf h.command) := by
    rw [Bool.eq_iff_iff, bne_iff_ne, bne_iff_ne, Ne, Ne, hs.magic]
  simp only [Machine.judge, hm, hs.dataChecksum, hs.arg0, hs.arg1]
  split <;> rfl

theorem SameButCommand.takePayload {h k : Header} (hs : SameButCommand h k) (after : Bytes) :
    takePayload k after = takePayload h after := by
  simp only [Machine.takePayload, hs.dataLength]

theorem SameButCommand.decodeBody {h k : Header} (hs : SameButCommand h k) (after : Bytes) :
    decodeBody k after = (decodeBody h after).withCommand k.command := by
  simp only [Machine.decodeBody, hs.takePayload]
  split
  · rfl
  · exact hs.judge _ _

theorem SameButCommand.accAfterBody {h k : Header} (hs : SameButCommand h k) (acc : U32)
    (after : Bytes) : accAfterBody acc k after = accAfterBody acc h after := by
  simp only [Machine.accAfterBody, hs.takePayload]

/-- A decoded message has the command and the arguments of its header (R134). -/
theorem message_of_decodeBody {h : Header} {after rest : Bytes} {m : Message}
    (hd : decodeBody h after = .ok m rest) : ∃ p, m = ⟨h.command, h.arg0, h.arg1, p⟩ := by
  unfold Machine.decodeBody at hd
  split at hd
  · cases hd
  · obtain ⟨-, -, hm, -⟩ := judge_eq_ok.1 hd
    exact ⟨_, hm⟩

/-- Settles O30: a pass of the loop looks at the command only to check the magic and to name the
message. -/
theorem commandValueMakesNoDifference : Obligations.CommandValueMakesNoDifference := by
  refine ⟨fun i h s hi => exec_of_wireHeader hi s, fun i j h k s hi hj ha0 ha1 hlen hck hmg => ?_⟩
  have hs : SameButCommand h k := ⟨ha0, ha1, hlen, hck, hmg⟩
  rw [exec_of_wireHeader hi, exec_of_wireHeader hj]
  by_cases hu : s.overflow = true ∨ s.buf.length < 24
  · rw [runFrame_of_undecoded h hu, runFrame_of_undecoded k hu, State.runIncomplete]
    split
    · exact ⟨s, .bufferOverflow, _, rfl, rfl, .inl ⟨rfl, rfl⟩⟩
    · exact ⟨s, .needMoreData, _, rfl, rfl, .inl ⟨rfl, rfl⟩⟩
  · obtain ⟨ho, hl⟩ := by simpa using hu
    rw [runFrame_of_decoded h ho hl, runFrame_of_decoded k ho hl, hs.decodeBody, hs.accAfterBody,
      hs.dataLength]
    generalize accAfterBody s.acc h (s.buf.drop 24) = a
    cases hd : decodeBody h (s.buf.drop 24) with
    | needMoreData =>
      exact ⟨{ s with acc := a }, .needMoreData, _, rfl, rfl, .inl ⟨rfl, rfl⟩⟩
    | corruptMessage c =>
      exact ⟨State.setCorrupt { s with acc := a }, .corruptMessage c, _, rfl, rfl,
        .inl ⟨rfl, rfl⟩⟩
    | ok m rest =>
      obtain ⟨p, rfl⟩ := message_of_decodeBody hd
      exact ⟨State.bufDrop { s with acc := a } (24 + h.dataLength.toNat), .message _, .message _,
        rfl, rfl, .inr ⟨p, rfl, rfl⟩⟩

/-! ### What a step refuses (R88, R91) -/

/-- No meaning faults or refuses (R210). -/
theorem exec_eq_next (i : Instr) (s : State) : ∃ t, exec i s = .next t := by
  cases i with
  | hdrDec b => simp only [exec, execHdrDec]; split <;> exact ⟨_, rfl⟩
  | msgEnc m => simp only [exec, execMsgEnc]; split <;> exact ⟨_, rfl⟩
  | msgDec b => simp only [exec, execMsgDec]; split <;> exact ⟨_, rfl⟩
  | send m => simp only [exec, execSend]; split_ifs <;> exact ⟨_, rfl⟩
  | frame | cnxn | opn | okay | clse | wrte | sync | srReset | srFeed | hdrEnc | csum | magic
  | msgNew | srStatus | srBuflen | dispatch | buildConnect | buildCommand => exact ⟨_, rfl⟩

/-- The one selector without an operation is 1111 (R91). -/
theorem decodeCommand_cases (sel : OpSel) (a : Operands) :
    (∃ i, decodeCommand sel a = .instr i) ∨
      (sel = 0b1111 ∧ decodeCommand sel a = .rejected .unassignedOpsel) := by
  unfold decodeCommand
  split
  case h_16 =>
    refine .inr ⟨BitVec.eq_of_toNat_eq ?_, rfl⟩
    have hlt := sel.isLt
    simp only [imp_false] at *
    change sel.toNat = 15
    omega
  all_goals exact .inl ⟨_, rfl⟩

/-- A request that is read as an instruction gives a next state. -/
theorem step_eq_next_of_decode {s : State} {r : Request} {rest : List Request} {i : Instr}
    (hp : s.pending = r :: rest) (hd : decode (r.packet s.buf) = .instr i) :
    ∃ t, step s = .next t := by
  obtain ⟨t, ht⟩ := exec_eq_next i { s with pending := rest }
  exact ⟨t.settle r, by rw [step_of_decode hp hd, ht]; rfl⟩

/-- The unassigned selector is refused (R91; log 7). -/
theorem step_of_unassigned {s : State} {a : Operands} {rest : List Request}
    (hp : s.pending = .op 0b1111 a :: rest) : step s = .refused .unassignedOpsel := by
  simp only [step, hp]
  rfl

/-- Settles O38, by the oldest request: only a selector can be refused, and only 1111. -/
theorem stepStopsOnlyAtUnassignedSelector : Obligations.StepStopsOnlyAtUnassignedSelector := by
  intro s
  cases hp : s.pending with
  | nil => exact .inl ⟨s, idleBlockDoesNothing s hp⟩
  | cons r rest =>
    cases r with
    | op sel a =>
      obtain ⟨i, hd⟩ | ⟨rfl, -⟩ := decodeCommand_cases sel a
      · exact .inl (step_eq_next_of_decode hp hd)
      · exact .inr ⟨step_of_unassigned hp, a, rest, rfl⟩
    | arrival chunk => exact .inl ⟨_, step_arrival hp⟩
    | boundary =>
      obtain hl | hl := Nat.lt_or_ge s.buf.length 24
      · exact .inl ⟨_, step_boundary_of_short hp hl⟩
      · exact .inl ⟨_, step_boundary_of_header hp hl⟩

/-- Settles O3, by running the decoder on the seven words. -/
theorem sampleWordsDecode : Obligations.SampleWordsDecode := by
  unfold Obligations.SampleWordsDecode
  decide

/-- Settles O4, one row of the selector table for each clause. -/
theorem selectorsChooseOperations : Obligations.SelectorsChooseOperations := fun _ =>
  ⟨rfl, rfl, rfl, rfl, rfl, rfl, rfl, rfl, rfl, rfl, rfl, rfl, rfl, rfl, rfl,
    fun _ _ => step_of_unassigned rfl⟩

/-- Settles O45: without a whole header the boundary answers NeedMoreData, unless overflowed. -/
theorem incompleteBoundaryNeedsMoreData : Obligations.IncompleteBoundaryNeedsMoreData := by
  intro s rest hp hl ho
  rw [step_boundary_of_short hp hl]
  simp [State.runIncomplete, State.report, ho]

end Machine

end Sys2Proof

/-! Proofs for 40_header_codec.md: the bytes of HDR.ENC (R110), the fields of HDR.DEC (R111), and
that each undoes the other (R112). -/

namespace Sys2Proof.Machine

/-! ### What HDR.ENC and HDR.DEC answer -/

/-- HDR.ENC answers the header's 24 bytes (R110). -/
theorem exec_hdrEnc (h : Header) (s : State) :
    exec (.hdrEnc h) s = .next (s.report (.bytes (encodeHeader h))) := rfl

/-- HDR.DEC lacks bytes below 24 (R111). -/
theorem exec_hdrDec_of_short {b : Bytes} (hl : b.length < 24) (s : State) :
    exec (.hdrDec b) s = .next (s.report .needMoreData) := by
  simp [exec, execHdrDec, hdrDec, hl]

/-- From 24 bytes on HDR.DEC answers the header at the front and the bytes after it (R111). -/
theorem exec_hdrDec_of_header {b : Bytes} (hl : 24 ≤ b.length) (s : State) :
    exec (.hdrDec b) s = .next (s.report (.header (readHeader b) (b.drop 24))) := by
  simp [exec, execHdrDec, hdrDec, Nat.not_lt.2 hl]

/-- The result added is known from the outcome. -/
theorem next_report_inj {s : State} {r r' : Result} :
    (.next (s.report r) : Host.Outcome State Fault Refusal) = .next (s.report r') ↔ r = r' := by
  simp [State.report]

/-! ### The statements -/

/-- Settles O6: the two lengths are the two cases of `hdrDec`, and a field is the sum of R7. -/
theorem hdrDecReadsSixFields : Obligations.HdrDecReadsSixFields := fun b s =>
  ⟨fun hl => exec_hdrDec_of_short hl s, fun hl =>
    ⟨readHeader b, exec_hdrDec_of_header hl s, rd32_toNat b 0, rd32_toNat b 4, rd32_toNat b 8,
      rd32_toNat b 12, rd32_toNat b 16, rd32_toNat b 20⟩⟩

/-- Settles O7: what HDR.ENC writes is read back, and what HDR.DEC read is written again. -/
theorem headerRoundTrips : Obligations.HeaderRoundTrips := by
  refine ⟨fun h s t b henc => ?_, fun b rest h s hl hdec => ?_⟩
  · obtain rfl : encodeHeader h = b :=
      Result.bytes.inj (next_report_inj.1 ((exec_hdrEnc h s).symm.trans henc))
    have hread : readHeader (encodeHeader h) = h := by simpa using readHeader_encodeHeader h []
    have hrest : (encodeHeader h).drop 24 = [] :=
      List.drop_eq_nil_of_le (encodeHeader_length h).le
    rw [exec_hdrDec_of_header (encodeHeader_length h).ge, hread, hrest]
    rfl
  · obtain ⟨rfl, rfl⟩ : readHeader b = h ∧ b.drop 24 = rest :=
      Result.header.inj (next_report_inj.1 ((exec_hdrDec_of_header hl s).symm.trans hdec))
    rw [exec_hdrEnc, encodeHeader_readHeader b hl]
    exact ⟨rfl, List.take_append_drop 24 b⟩

/-- Settles O5: each of a field's four bytes is read off the 24 bytes of the header. -/
theorem hdrEncIsLittleEndian : Obligations.HdrEncIsLittleEndian := by
  refine fun h s => ⟨encodeHeader h, exec_hdrEnc h s, encodeHeader_length h, fun k hk => ?_⟩
  match k, hk with
  | 0, _ | 1, _ | 2, _ | 3, _ => exact ⟨rfl, rfl, rfl, rfl, rfl, rfl⟩

end Sys2Proof.Machine

/-! Proofs for 41_message_codec.md: the two integrity functions (R130, R131), what makes a message
(R132), MSG.ENC and MSG.DEC and that each undoes the other (R133 to R136), a frame run at the
boundary (R161; log 2), and why every message the block answers stays valid. -/

namespace Sys2Proof.Machine

/-! ### The integrity functions (R130, R131) -/

/-- A field holds the checksum exactly when its number is the byte sum modulo 2^32. -/
theorem eq_csum_iff (v : U32) (p : Bytes) : v = csum p ↔ v.toNat = byteSum p % 2 ^ 32 := by
  rw [csum_eq_byteSum, ← BitVec.toNat_inj, BitVec.toNat_ofNat]

theorem csum_perm {p q : Bytes} (h : p.Perm q) : csum p = csum q := by
  have hsum : byteSum p = byteSum q := (h.map BitVec.toNat).sum_eq
  rw [csum_eq_byteSum, csum_eq_byteSum, hsum]

theorem csum_append (p q : Bytes) : csum (p ++ q) = csum p + csum q := by
  rw [csum, List.foldl_append, foldl_accStep, ← csum]

theorem exec_csum (p : Bytes) (s : State) :
    exec (.csum p) s = .next (({ s with acc := csum p } : State).report (.word (csum p))) := rfl

theorem exec_magic (c : U32) (s : State) :
    exec (.magic c) s = .next (s.report (.word (magicOf c))) := rfl

@[simp] theorem magicOf_magicOf (c : U32) : magicOf (magicOf c) = c := by
  simp [magicOf_eq_not]

theorem magicOf_toNat (c : U32) : (magicOf c).toNat = 2 ^ 32 - 1 - c.toNat := by
  rw [magicOf_eq_not, BitVec.toNat_not]

/-- A command and its magic add up to 2^32 - 1, an odd number, so they differ (R131). -/
theorem magicOf_ne (c : U32) : magicOf c ≠ c := by
  intro h
  have hc := magicOf_toNat c
  rw [h] at hc
  omega

/-! ### Making and encoding a message (R132, R133) -/

theorem newMessage_of_short {m : Message} (hl : m.payload.length < 2 ^ 32) (s : State) :
    s.newMessage m = ({ s with acc := csum m.payload } : State).report (.message m) :=
  if_pos (m.wellFormed_iff.2 hl)

theorem newMessage_of_long {m : Message} (hl : 2 ^ 32 ≤ m.payload.length) (s : State) :
    s.newMessage m = s.report .payloadTooLong :=
  if_neg fun hw => (m.wellFormed_iff.1 hw).not_ge hl

theorem exec_msgEnc_of_short {m : Message} (hl : m.payload.length < 2 ^ 32) (s : State) :
    exec (.msgEnc m) s =
      .next (({ s with acc := csum m.payload } : State).report (.bytes (msgEnc m))) :=
  if_pos (m.wellFormed_iff.2 hl)

/-- The derived length of a Message is its length: nothing is lost to the 32 bits (R132). -/
theorem headerOf_dataLength_toNat {m : Message} (hl : m.payload.length < 2 ^ 32) :
    (headerOf m).dataLength.toNat = m.payload.length :=
  Nat.mod_eq_of_lt hl

/-! ### Decoding what follows a header (R134, R135) -/

theorem judge_of_passed {h : Header} {p : Bytes} (rest : Bytes)
    (hm : h.magic = h.command ^^^ 0xFFFFFFFF)
    (hc : h.dataChecksum.toNat = byteSum p % 2 ^ 32) :
    judge h p rest = .ok ⟨h.command, h.arg0, h.arg1, p⟩ rest :=
  judge_eq_ok.2 ⟨hm, (eq_csum_iff _ p).2 hc, rfl, rfl⟩

/-- A failed frame names every check that failed, not only the first (R134). -/
theorem judge_of_failed {h : Header} {p : Bytes} (rest : Bytes)
    (hbad : h.magic ≠ h.command ^^^ 0xFFFFFFFF ∨ h.dataChecksum.toNat ≠ byteSum p % 2 ^ 32) :
    judge h p rest = .corruptMessage ⟨decide (h.magic ≠ h.command ^^^ 0xFFFFFFFF),
      decide (h.dataChecksum.toNat ≠ byteSum p % 2 ^ 32)⟩ := by
  have hm : (h.magic != magicOf h.command) = decide (h.magic ≠ h.command ^^^ 0xFFFFFFFF) := by
    rw [Bool.eq_iff_iff, bne_iff_ne, decide_eq_true_iff, magicOf]
  have hc : (h.dataChecksum != csum p) =
      decide (h.dataChecksum.toNat ≠ byteSum p % 2 ^ 32) := by
    rw [Bool.eq_iff_iff, bne_iff_ne, decide_eq_true_iff, Ne, eq_csum_iff]
  simp only [judge, hm, hc, Bool.or_eq_true, decide_eq_true_iff]
  exact if_pos hbad

theorem takePayload_of_short {h : Header} {after : Bytes}
    (hl : after.length < h.dataLength.toNat) : takePayload h after = none :=
  if_pos hl

theorem takePayload_of_whole {h : Header} {after : Bytes}
    (hl : h.dataLength.toNat ≤ after.length) :
    takePayload h after = some (after.take h.dataLength.toNat, after.drop h.dataLength.toNat) :=
  if_neg hl.not_gt

theorem decodeBody_of_short {h : Header} {after : Bytes}
    (hl : after.length < h.dataLength.toNat) : decodeBody h after = .needMoreData := by
  rw [decodeBody, takePayload_of_short hl]

theorem decodeBody_of_whole {h : Header} {after : Bytes}
    (hl : h.dataLength.toNat ≤ after.length) :
    decodeBody h after =
      judge h (after.take h.dataLength.toNat) (after.drop h.dataLength.toNat) := by
  rw [decodeBody, takePayload_of_whole hl]

/-- ACC is left alone when no payload was summed (R27; log 4). -/
theorem accAfterBody_of_short {h : Header} {after : Bytes} (acc : U32)
    (hl : after.length < h.dataLength.toNat) : accAfterBody acc h after = acc := by
  rw [accAfterBody, takePayload_of_short hl]

/-- A decoded message carries the payload of a whole frame whose two checks passed. -/
theorem decodeBody_eq_ok_iff {h : Header} {after rest : Bytes} {m : Message} :
    decodeBody h after = .ok m rest ↔
      h.dataLength.toNat ≤ after.length ∧ h.magic = magicOf h.command ∧
        h.dataChecksum = csum (after.take h.dataLength.toNat) ∧
        m = ⟨h.command, h.arg0, h.arg1, after.take h.dataLength.toNat⟩ ∧
        rest = after.drop h.dataLength.toNat := by
  obtain hl | hl := Nat.lt_or_ge after.length h.dataLength.toNat
  · simp [decodeBody_of_short hl, hl.not_ge]
  · simp [decodeBody_of_whole hl, judge_eq_ok, hl]

/-- A length field has 32 bits, and so a decoded payload is never too long (R134). -/
theorem payload_lt_of_decodeBody {h : Header} {after rest : Bytes} {m : Message}
    (hd : decodeBody h after = .ok m rest) : m.payload.length < 2 ^ 32 := by
  obtain ⟨-, -, -, rfl, -⟩ := decodeBody_eq_ok_iff.1 hd
  exact (List.length_take_le _ _).trans_lt h.dataLength.isLt

/-! ### MSG.DEC and MSG.ENC (R133 to R136) -/

theorem decodeBody_of_msgDec {b rest : Bytes} {m : Message} (hd : msgDec b = .ok m rest) :
    24 ≤ b.length ∧ decodeBody (readHeader b) (b.drop 24) = .ok m rest := by
  have hl : 24 ≤ b.length := length_of_msgDec_ne_needMoreData (by simp [hd])
  exact ⟨hl, (decodeBody_readHeader hl).trans hd⟩

theorem payload_lt_of_msgDec {b rest : Bytes} {m : Message} (hd : msgDec b = .ok m rest) :
    m.payload.length < 2 ^ 32 :=
  payload_lt_of_decodeBody (decodeBody_of_msgDec hd).2

/-- The frame of a Message decodes to it and to the bytes that follow (R136). -/
theorem msgDec_msgEnc_append {m : Message} (t : Bytes) (hl : m.payload.length < 2 ^ 32) :
    msgDec (msgEnc m ++ t) = .ok m t := by
  have hlen := headerOf_dataLength_toNat hl
  have hread : readHeader (msgEnc m ++ t) = headerOf m := by
    rw [msgEnc, List.append_assoc]
    exact readHeader_encodeHeader _ _
  have hafter : (msgEnc m ++ t).drop headerBytes = m.payload ++ t := by
    rw [msgEnc, List.append_assoc]
    exact List.drop_left' (encodeHeader_length _)
  rw [← decodeBody_readHeader (by simp; omega), hread, hafter, decodeBody_eq_ok_iff, hlen]
  simp [headerOf]

/-- The derived fields of a decoded message are those its header held, for both checks passed. -/
theorem headerOf_of_decodeBody {h : Header} {after rest : Bytes} {m : Message}
    (hd : decodeBody h after = .ok m rest) : headerOf m = h := by
  obtain ⟨hl, hm, hc, rfl, -⟩ := decodeBody_eq_ok_iff.1 hd
  simp [headerOf, ← hm, ← hc, hl]

/-- A decoded message encodes to the frame it was decoded from (R136). -/
theorem msgEnc_append_of_msgDec {b rest : Bytes} {m : Message} (hd : msgDec b = .ok m rest) :
    msgEnc m ++ rest = b := by
  obtain ⟨hl, hbody⟩ := decodeBody_of_msgDec hd
  have hhead := headerOf_of_decodeBody hbody
  obtain ⟨-, -, -, rfl, rfl⟩ := decodeBody_eq_ok_iff.1 hbody
  rw [msgEnc, hhead, hdrEnc, encodeHeader_readHeader b hl, List.append_assoc,
    List.take_append_drop, List.take_append_drop]

/-- A proper front part of a frame is undecided: a verdict on it would be the verdict on the whole
frame, which leaves none of the frame's other bytes over (R136). -/
theorem msgDec_of_proper_front {m : Message} {x : Bytes} (hl : m.payload.length < 2 ^ 32)
    (hx : x <+: msgEnc m) (hne : x ≠ msgEnc m) : msgDec x = .needMoreData := by
  obtain ⟨t, ht⟩ := hx
  by_contra hd
  have happ := msgDec_append t hd
  have hwhole : msgDec (msgEnc m) = .ok m [] := by simpa using msgDec_msgEnc_append [] hl
  rw [ht, hwhole] at happ
  cases hv : msgDec x with
  | ok m' rest =>
    obtain ⟨-, -, rfl⟩ : m = m' ∧ rest = [] ∧ t = [] := by simpa [hv] using happ
    exact hne (by simpa using ht)
  | needMoreData => exact hd hv
  | corruptMessage c => simp [hv] at happ

/-- The answer of MSG.DEC to a verdict (R134). -/
def DecodeResult.answer : DecodeResult → Result
  | .ok m rest => .decoded m rest
  | .needMoreData => .needMoreData
  | .corruptMessage c => .corruptMessage c

theorem DecodeResult.answer_eq_decoded_iff {v : DecodeResult} {m : Message} {rest : Bytes} :
    v.answer = .decoded m rest ↔ v = .ok m rest := by
  cases v <;> simp [DecodeResult.answer]

theorem exec_msgDec (b : Bytes) (s : State) :
    exec (.msgDec b) s =
      .next (({ s with acc := accAfterDec s.acc b } : State).report (msgDec b).answer) := by
  simp only [exec, execMsgDec]
  cases msgDec b <;> rfl

theorem msgDec_of_exec_decoded {b rest : Bytes} {m : Message} {s : State} {a : U32}
    (h : exec (.msgDec b) s =
      .next { s with acc := a, results := s.results ++ [.decoded m rest] }) :
    msgDec b = .ok m rest := by
  obtain ⟨-, hans⟩ : accAfterDec s.acc b = a ∧ (msgDec b).answer = .decoded m rest := by
    simpa [exec_msgDec, State.report] using h
  exact DecodeResult.answer_eq_decoded_iff.1 hans

/-! ### Valid messages (R132, R134) -/

/-- Every message of a result has a payload shorter than 2^32 bytes. -/
def Result.valid (r : Result) : Prop :=
  ∀ m ∈ r.made, m.payload.length < 2 ^ 32

theorem Result.valid_of_made_nil {r : Result} (h : r.made = []) : r.valid := by
  simp [Result.valid, h]

@[simp] theorem Result.valid_message (m : Message) :
    (Result.message m).valid ↔ m.payload.length < 2 ^ 32 := by
  simp [Result.valid, Result.made]

/-- One valid answer has been added to the results. -/
def State.AnswersValid (s t : State) : Prop :=
  ∃ r : Result, t.results = s.results ++ [r] ∧ r.valid

/-- An answer that holds no message is valid. -/
theorem State.AnswersValid.of_made_nil {s t : State} {r : Result}
    (ht : t.results = s.results ++ [r]) (hr : r.made = []) : s.AnswersValid t :=
  ⟨r, ht, Result.valid_of_made_nil hr⟩

theorem State.messagesValid.of_answersValid {s t : State} (hs : s.messagesValid)
    (ht : s.AnswersValid t) : t.messagesValid := by
  obtain ⟨r, hres, hr⟩ := ht
  intro r' hr'
  rw [hres, List.mem_append, List.mem_singleton] at hr'
  obtain hold | rfl := hr'
  · exact hs r' hold
  · exact hr

/-- MSG.NEW refuses what would be too long (R132). -/
theorem newMessage_answersValid (s : State) (m : Message) : s.AnswersValid (s.newMessage m) := by
  obtain hl | hl := Nat.lt_or_ge m.payload.length (2 ^ 32)
  · rw [newMessage_of_short hl]
    exact ⟨.message m, rfl, (Result.valid_message m).2 hl⟩
  · rw [newMessage_of_long hl]
    exact .of_made_nil rfl rfl

theorem newTextMessage_answersValid (s : State) (c a0 a1 : U32) (t : Text) :
    s.AnswersValid (s.newTextMessage c a0 a1 t) := by
  unfold State.newTextMessage
  split
  · exact .of_made_nil rfl rfl
  · exact newMessage_answersValid s _

theorem msgDec_answer_valid (b : Bytes) : (msgDec b).answer.valid := by
  cases hd : msgDec b with
  | ok m rest =>
    simpa [Result.valid, Result.made, DecodeResult.answer] using payload_lt_of_msgDec hd
  | needMoreData => exact Result.valid_of_made_nil rfl
  | corruptMessage c => exact Result.valid_of_made_nil rfl

/-- Every message the loop emits was decoded by one of its attempts (R160 step 4). -/
theorem drainLoop_msgs_valid (n : Nat) (b : Bytes) (acc : U32) :
    ∀ m ∈ (drainLoop n b acc).msgs, m.payload.length < 2 ^ 32 := by
  induction n generalizing b acc with
  | zero => simp [drainLoop]
  | succ n ih =>
    rw [drainLoop]
    cases hd : msgDec b with
    | ok m rest => exact List.forall_mem_cons.2 ⟨payload_lt_of_msgDec hd, ih rest _⟩
    | needMoreData => simp
    | corruptMessage c => simp

theorem feed_answersValid (s : State) (chunk : Bytes) : s.AnswersValid (s.feed chunk) := by
  obtain ⟨-, e⟩ | ⟨-, -, e⟩ | ⟨-, -, e⟩ := feed_cases s chunk <;> rw [e]
  · exact .of_made_nil rfl rfl
  · exact .of_made_nil rfl rfl
  · rw [appendAndDrain_eq]
    exact ⟨.fed _ _, rfl, drainLoop_msgs_valid _ _ _⟩

theorem runIncomplete_answersValid (s : State) : s.AnswersValid s.runIncomplete := by
  unfold State.runIncomplete
  split <;> exact .of_made_nil rfl rfl

theorem runFrame_answersValid (s : State) (h : Header) : s.AnswersValid (s.runFrame h) := by
  by_cases hu : s.overflow = true ∨ s.buf.length < 24
  · rw [runFrame_of_undecoded h hu]
    exact runIncomplete_answersValid s
  · obtain ⟨ho, hl⟩ := by simpa using hu
    rw [runFrame_of_decoded h ho hl]
    cases hd : decodeBody h (s.buf.drop 24) with
    | ok m rest =>
      exact ⟨.message m, rfl, (Result.valid_message m).2 (payload_lt_of_decodeBody hd)⟩
    | needMoreData => exact .of_made_nil rfl rfl
    | corruptMessage c => exact .of_made_nil rfl rfl

/-- Every instruction adds one answer, and a message in it is valid. -/
theorem exec_answersValid {i : Instr} {s t : State} (h : exec i s = .next t) :
    s.AnswersValid t := by
  cases i with
  | frame | cnxn | opn | okay | clse | wrte | sync => cases h; exact runFrame_answersValid s _
  | srFeed chunk => cases h; exact feed_answersValid s chunk
  | srReset | hdrEnc | csum | magic | srStatus | srBuflen => cases h; exact .of_made_nil rfl rfl
  | hdrDec b =>
    simp only [exec, execHdrDec] at h
    split at h <;> cases h <;> exact .of_made_nil rfl rfl
  | msgNew => cases h; exact newMessage_answersValid s _
  | msgEnc m =>
    simp only [exec, execMsgEnc] at h
    split at h <;> cases h <;> exact .of_made_nil rfl rfl
  | msgDec b =>
    cases (exec_msgDec b s).symm.trans h
    exact ⟨_, rfl, msgDec_answer_valid b⟩
  | dispatch m =>
    cases h
    refine .of_made_nil rfl ?_
    cases handlerFor s.config m.command <;> rfl
  | buildConnect => cases h; exact newTextMessage_answersValid s _ _ _ _
  | buildCommand => cases h; exact newTextMessage_answersValid s _ _ _ _
  | send m =>
    simp only [exec, execSend] at h
    split_ifs at h <;> cases h <;> exact .of_made_nil rfl rfl

/-! ### The statements -/

/-- Settles O50, by what a step can do: the decoded instruction adds one valid answer, and what
comes before and after it adds none. -/
theorem messagesStayValid : Obligations.MessagesStayValid := by
  intro s t hs h
  obtain ⟨-, rfl⟩ | ⟨r, rest, -, ⟨i, u, -, he, rfl⟩ | rfl⟩ := step_cases h
  · exact hs
  · obtain ⟨a, hres, ha⟩ := exec_answersValid he
    exact hs.of_answersValid ⟨a, (u.settle_results r).trans hres, ha⟩
  · exact hs.of_answersValid (runIncomplete_answersValid { s with pending := rest })

/-- Settles O8: the answer is `csum`, which a permutation keeps and concatenation adds up. -/
theorem csumIsSumOfByteValues : Obligations.CsumIsSumOfByteValues := by
  refine ⟨fun p s => ?_, fun p q s hpq => ?_, fun p q s v w hp hq => ?_⟩
  · rw [exec_csum, csum_eq_byteSum]
    rfl
  · rw [exec_csum, exec_csum, csum_perm hpq]
  · obtain rfl : csum p = v := by simpa [exec_csum, State.report] using hp
    obtain rfl : csum q = w := by simpa [exec_csum, State.report] using hq
    rw [exec_csum, csum_append]
    rfl

/-- Settles O10: the operands make a message when the length fits, and the fields derived from it
are those of `headerOf`. -/
theorem msgNewMakesValidMessage : Obligations.MsgNewMakesValidMessage := by
  intro c a0 a1 p s
  refine ⟨fun hl => ⟨⟨csum p, congrArg _ (newMessage_of_short hl s)⟩, rfl, rfl, rfl,
    headerOf_dataLength_toNat hl, (eq_csum_iff _ p).1 rfl, rfl⟩,
    fun hl => congrArg _ (newMessage_of_long hl s)⟩

/-- Settles O13: a short header, a short payload, and the two verdicts on a whole frame. -/
theorem msgDecChecksInOrder : Obligations.MsgDecChecksInOrder := by
  intro b s h n p magicBad csumBad
  have hneed (hs : b.length < 24 ∨ b.length - 24 < n) : ∃ a, exec (.msgDec b) s =
      .next { s with acc := a, results := s.results ++ [.needMoreData] } := by
    refine ⟨accAfterDec s.acc b, ?_⟩
    rw [exec_msgDec, (msgDec_eq_needMoreData_iff b).2 hs]
    rfl
  have hwhole (hl : 24 ≤ b.length) (hn : n ≤ b.length - 24) :
      msgDec b = judge h p (b.drop (24 + n)) := by
    rw [← decodeBody_readHeader hl, decodeBody_of_whole (by simpa using hn), List.drop_drop]
  refine ⟨fun hl => hneed (.inl hl), fun _ hn => hneed (.inr hn), fun hl hn hbad => ?_,
    fun hl hn hm hc => ?_⟩
  · refine ⟨accAfterDec s.acc b, ?_⟩
    rw [exec_msgDec, hwhole hl hn, judge_of_failed _ hbad]
    rfl
  · refine ⟨accAfterDec s.acc b, ?_⟩
    rw [exec_msgDec, hwhole hl hn, judge_of_passed _ (not_not.1 hm) (not_not.1 hc)]
    rfl

/-- Settles O14, one lemma for each of the three clauses. -/
theorem messageRoundTrips : Obligations.MessageRoundTrips := by
  refine ⟨fun m t s hl => ⟨accAfterDec s.acc (msgEnc m ++ t), ?_⟩,
    fun m x s hl hx hne => ⟨accAfterDec s.acc x, ?_⟩, fun b rest m s a h => ?_⟩
  · rw [exec_msgDec, msgDec_msgEnc_append t hl]
    rfl
  · rw [exec_msgDec, msgDec_of_proper_front hl hx hne]
    rfl
  · have hd := msgDec_of_exec_decoded h
    exact ⟨msgEnc_append_of_msgDec hd, payload_lt_of_msgDec hd⟩

/-- Settles O27: a frame row is one pass of the loop, which answers the verdict on what follows the
header. -/
theorem framesRunAtTheBoundary : Obligations.FramesRunAtTheBoundary := by
  intro i h s hi ho hl n p magicBad csumBad
  rw [exec_of_wireHeader hi, runFrame_of_decoded h ho hl]
  refine ⟨fun hn => ?_, fun hn hm hc => ⟨accAfterBody s.acc h (s.buf.drop 24), ?_⟩,
    fun hn hbad => ⟨accAfterBody s.acc h (s.buf.drop 24), ?_⟩⟩
  · have hshort : (s.buf.drop 24).length < h.dataLength.toNat := by simpa using hn
    rw [decodeBody_of_short hshort, accAfterBody_of_short _ hshort]
    rfl
  · rw [decodeBody_of_whole (by simpa using hn),
      judge_of_passed _ (not_not.1 hm) (not_not.1 hc)]
    rfl
  · rw [decodeBody_of_whole (by simpa using hn), judge_of_failed _ hbad]
    rfl

/-- Settles O9: every clause is a law of the complement. -/
theorem magicInvertsEveryBit : Obligations.MagicInvertsEveryBit := by
  intro c s
  have hnat := magicOf_toNat c
  refine ⟨magicOf c, exec_magic c s, rfl, fun k hk => ?_, hnat, by omega, ?_, magicOf_ne c, ?_⟩
  · simp [magicOf_eq_not, hk]
  · rw [magicOf, ← BitVec.xor_assoc, BitVec.xor_self, BitVec.zero_xor]
  · rw [exec_magic, magicOf_magicOf]
    rfl

/-- Settles O11: the bytes before the payload are those of the derived header. -/
theorem msgEncWritesHeaderThenPayload : Obligations.MsgEncWritesHeaderThenPayload := by
  intro m s hl
  refine ⟨csum m.payload, hdrEnc (headerOf m), exec_msgEnc_of_short hl s,
    encodeHeader_length _, ?_⟩
  rw [exec_hdrEnc, ← csum_eq_byteSum]
  rfl

end Sys2Proof.Machine

/-! Proofs for 42_stream_reassembler.md: SR.FEED's four steps (R160), why the cutting of the stream
does not matter (R162), what sticks after a corrupt frame (R163) and after a rejected chunk (R164),
and SR.RESET, SR.STATUS and SR.BUFLEN (R165 to R167). -/

namespace Sys2Proof.Machine

/-! ### MSG.DEC and the bytes that follow (R162) -/

theorem DecodeResult.answer_eq_corruptMessage_iff {v : DecodeResult} {c : Cause} :
    v.answer = .corruptMessage c ↔ v = .corruptMessage c := by
  cases v <;> simp [DecodeResult.answer]

theorem DecodeResult.answer_eq_needMoreData_iff {v : DecodeResult} :
    v.answer = .needMoreData ↔ v = .needMoreData := by
  cases v <;> simp [DecodeResult.answer]

/-- MSG.DEC writes ACC and its answer. -/
theorem exec_msgDec_eq_iff {b : Bytes} {s : State} {a : U32} {r : Result} :
    exec (.msgDec b) s = .next { s with acc := a, results := s.results ++ [r] } ↔
      accAfterDec s.acc b = a ∧ (msgDec b).answer = r := by
  simp [exec_msgDec, State.report]

/-- A decoded frame stays decoded when bytes follow it, and they are left over. -/
theorem msgDec_append_of_ok {b rest : Bytes} {m : Message} (t : Bytes)
    (hd : msgDec b = .ok m rest) : msgDec (b ++ t) = .ok m (rest ++ t) := by
  rw [msgDec_append t (by simp [hd]), hd]

/-- What lacks bytes lacks them also without its last ones. -/
theorem msgDec_of_append_needMoreData {b t : Bytes} (h : msgDec (b ++ t) = .needMoreData) :
    msgDec b = .needMoreData := by
  by_contra hne
  cases hd : msgDec b with
  | ok m rest => simp [msgDec_append_of_ok t hd] at h
  | needMoreData => exact hne hd
  | corruptMessage c => simp [msgDec_append_of_corruptMessage t hd] at h

/-! ### SR.FEED, and a list of them -/

theorem exec_srFeed (chunk : Bytes) (s : State) :
    exec (.srFeed chunk) s = .next (s.feed chunk) := rfl

/-- No SR.FEED stops a run, so that the chunks are simply fed one after another (R162). -/
theorem runFeeds_eq_foldl (cs : List Bytes) (s : State) :
    runFeeds cs s = some (cs.foldl State.feed s) := by
  induction cs generalizing s with
  | nil => rfl
  | cons c cs ih => exact ih (s.feed c)

theorem runFeeds_eq_some_iff {cs : List Bytes} {s t : State} :
    runFeeds cs s = some t ↔ cs.foldl State.feed s = t := by
  rw [runFeeds_eq_foldl, Option.some.injEq]

/-- The messages emitted between two states are those of the results added. -/
theorem emittedSince_of_results {s t : State} {rs : List Result}
    (h : t.results = s.results ++ rs) : emittedSince s t = rs.flatMap Result.messages := by
  rw [emittedSince, h, List.drop_left]

/-- An empty chunk is stored wherever BUF is within BUF_MAX. -/
theorem feed_nil {s : State} (ho : s.overflow = false) (hmax : s.withinBufMax) :
    s.feed [] = s.appendAndDrain [] :=
  feed_of_fits ho (exceeds_eq_false.2 hmax)

/-! ### Steps 3 and 4 of SR.FEED by the verdict on BUF and the chunk (R160) -/

theorem appendAndDrain_of_needMoreData {s : State} {chunk : Bytes}
    (hd : msgDec (s.buf ++ chunk) = .needMoreData) :
    s.appendAndDrain chunk =
      { s with
        buf := s.buf ++ chunk
        acc := accAfterDec s.acc (s.buf ++ chunk)
        results := s.results ++ [.fed [] .needMoreData] } := by
  rw [appendAndDrain_eq, drain_step, hd]
  simp

theorem appendAndDrain_of_corruptMessage {s : State} {chunk : Bytes} {c : Cause}
    (hd : msgDec (s.buf ++ chunk) = .corruptMessage c) :
    s.appendAndDrain chunk =
      { s with
        buf := s.buf ++ chunk
        corrupt := true
        acc := accAfterDec s.acc (s.buf ++ chunk)
        results := s.results ++ [.fed [] (.corruptMessage c)] } := by
  rw [appendAndDrain_eq, drain_step, hd]
  simp

/-- A whole valid frame is removed and its message put first; the rest is an SR.FEED of nothing on
what remains. -/
theorem appendAndDrain_of_ok {s : State} {chunk rest : Bytes} {m : Message}
    (hd : msgDec (s.buf ++ chunk) = .ok m rest) :
    ∃ (a : U32) (t : State) (ms : List Message) (o : FeedOutcome),
      State.appendAndDrain { s with buf := rest, acc := a } [] =
        { t with results := s.results ++ [.fed ms o] } ∧
      s.appendAndDrain chunk = { t with results := s.results ++ [.fed (m :: ms) o] } := by
  refine ⟨accAfterDec s.acc (s.buf ++ chunk), s.appendAndDrain chunk,
    (drain rest (accAfterDec s.acc (s.buf ++ chunk))).msgs,
    (drain rest (accAfterDec s.acc (s.buf ++ chunk))).outcome, ?_, ?_⟩
  · rw [appendAndDrain_eq, appendAndDrain_eq, drain_step (s.buf ++ chunk), hd]
    simp
  · rw [appendAndDrain_eq, drain_step (s.buf ++ chunk), hd]

/-! ### The decode loop and the cutting of the stream (R162) -/

/-- ACC is left alone by a decode attempt that lacks bytes (R27; log 4). -/
theorem accAfterDec_of_needMoreData {b : Bytes} (acc : U32) (h : msgDec b = .needMoreData) :
    accAfterDec acc b = acc := by
  obtain hl | hl := Nat.lt_or_ge b.length 24
  · simp [accAfterDec, hdrDec, hl]
  · have hs := ((msgDec_eq_needMoreData_iff b).1 h).resolve_left hl.not_gt
    have hs' : (b.drop 24).length < (readHeader b).dataLength.toNat := by
      rw [List.length_drop]; exact hs
    simp [accAfterDec, hdrDec, hl.not_gt, accAfterBody_of_short acc hs']

/-- A repeated decode attempt leaves ACC as the first one did. -/
theorem accAfterDec_accAfterDec (acc : U32) (b : Bytes) :
    accAfterDec (accAfterDec acc b) b = accAfterDec acc b := by
  unfold accAfterDec
  cases hdrDec b with
  | none => rfl
  | some p =>
    simp only [accAfterBody]
    cases takePayload p.1 p.2 <;> rfl

/-- What the loop emits and leaves, with further messages in front. -/
def Drained.withFront (ms : List Message) (d : Drained) : Drained :=
  { d with msgs := ms ++ d.msgs }

/-- The loop on a sequence is the loop on a front part of it, and then on what that leaves and the
remaining bytes: a verdict does not change when bytes follow it, and where there is none the loop
has removed nothing (R162). -/
theorem drain_append (b t : Bytes) (acc : U32) :
    drain (b ++ t) acc =
      (drain ((drain b acc).buf ++ t) (drain b acc).acc).withFront (drain b acc).msgs := by
  induction hn : b.length using Nat.strong_induction_on generalizing b acc with
  | _ n ih =>
    subst hn
    cases hd : msgDec b with
    | ok m rest =>
      have hne : msgDec b ≠ .needMoreData := by simp [hd]
      have hr := ih rest.length (by have := msgDec_ok_length hd; omega) rest (accAfterDec acc b) rfl
      have hstep : drain b acc =
          (drain rest (accAfterDec acc b)).withFront [m] := by rw [drain_step, hd]; rfl
      rw [drain_step, msgDec_append_of_ok t hd, hstep]
      simp only [accAfterDec_append acc t hne, hr]
      rfl
    | needMoreData =>
      have hstep : drain b acc = ⟨[], b, acc, .needMoreData⟩ := by
        rw [drain_step, hd, accAfterDec_of_needMoreData acc hd]
      rw [hstep]
      rfl
    | corruptMessage c =>
      have hne : msgDec b ≠ .needMoreData := by simp [hd]
      have happ := msgDec_append_of_corruptMessage t hd
      rw [drain_of_corruptMessage acc hd, drain_of_corruptMessage acc happ,
        drain_of_corruptMessage _ happ, accAfterDec_append _ t hne, accAfterDec_append _ t hne,
        accAfterDec_accAfterDec]
      rfl

/-- Whole frames and bytes that lack more give the frames' messages and leave those bytes. -/
theorem drain_frames {ms : List Message} {x : Bytes} (acc : U32)
    (hms : ∀ m ∈ ms, m.payload.length < 2 ^ 32) (hx : msgDec x = .needMoreData) :
    ∃ a, drain ((ms.map msgEnc).flatten ++ x) acc = ⟨ms, x, a, .needMoreData⟩ := by
  induction ms generalizing acc with
  | nil => exact ⟨_, by rw [List.map_nil, List.flatten_nil, List.nil_append, drain_step, hx]⟩
  | cons m ms ih =>
    obtain ⟨hm, hms⟩ := List.forall_mem_cons.1 hms
    obtain ⟨a, ha⟩ := ih (accAfterDec acc (((m :: ms).map msgEnc).flatten ++ x)) hms
    refine ⟨a, ?_⟩
    rw [drain_step]
    simp only [List.map_cons, List.flatten_cons, List.append_assoc] at ha ⊢
    rw [msgDec_msgEnc_append _ hm]
    simp only [ha]

/-- Every byte is accounted for: the sequence is the frames of the emitted messages and then what
the loop leaves (R62, R168). -/
theorem drain_accounts (b : Bytes) (acc : U32) :
    ((drain b acc).msgs.map msgEnc).flatten ++ (drain b acc).buf = b := by
  induction hn : b.length using Nat.strong_induction_on generalizing b acc with
  | _ n ih =>
    subst hn
    rw [drain_step]
    cases hd : msgDec b with
    | ok m rest =>
      have hr := ih rest.length (by have := msgDec_ok_length hd; omega) rest (accAfterDec acc b) rfl
      simp [hr, msgEnc_append_of_msgDec hd]
    | needMoreData => rfl
    | corruptMessage c => rfl

/-! ### Feeding a cutting is feeding the whole (R162) -/

/-- `t` is what one SR.FEED of `b` in `s` leaves, but for the results added: `rs`, which hold the
same messages and end with the same outcome. -/
structure State.FedAs (s t : State) (b : Bytes) (rs : List Result) : Prop where
  state : t = { s.appendAndDrain b with results := s.results ++ rs }
  messages : rs.flatMap Result.messages = (drain (s.buf ++ b) s.acc).msgs
  outcome : rs.getLast?.bind Result.feedOutcome = some (drain (s.buf ++ b) s.acc).outcome

/-- The result that an SR.FEED adds when it stores its chunk. -/
def State.storedResult (s : State) (b : Bytes) : Result :=
  .fed (drain (s.buf ++ b) s.acc).msgs (drain (s.buf ++ b) s.acc).outcome

theorem appendAndDrain_buf (s : State) (b : Bytes) :
    (s.appendAndDrain b).buf = (drain (s.buf ++ b) s.acc).buf := by
  rw [appendAndDrain_eq]

theorem appendAndDrain_acc (s : State) (b : Bytes) :
    (s.appendAndDrain b).acc = (drain (s.buf ++ b) s.acc).acc := by
  rw [appendAndDrain_eq]

theorem appendAndDrain_results (s : State) (b : Bytes) :
    (s.appendAndDrain b).results = s.results ++ [s.storedResult b] := by
  rw [appendAndDrain_eq, State.storedResult]

/-- A cutting into one chunk. -/
theorem State.FedAs.single (s : State) (b : Bytes) :
    s.FedAs (s.appendAndDrain b) b [s.storedResult b] where
  state := by rw [← appendAndDrain_results]
  messages := List.append_nil _
  outcome := rfl

/-- Two stored chunks leave what their concatenation leaves, but for the results. The first loop's
CORRUPT is not lost in it: the corrupt frame that stopped that loop stops the whole one as well. -/
theorem appendAndDrain_append (s : State) (c b : Bytes) (rs : List Result) :
    ({ (s.appendAndDrain c).appendAndDrain b with results := rs } : State) =
      { s.appendAndDrain (c ++ b) with results := rs } := by
  have hd := drain_append (s.buf ++ c) b s.acc
  rw [appendAndDrain_eq s (c ++ b), ← List.append_assoc, hd, appendAndDrain_eq (s.appendAndDrain c),
    appendAndDrain_eq s c]
  obtain ⟨ho, -⟩ | ⟨k, ho, hk⟩ := drain_stop (s.buf ++ c) s.acc
  · simp [ho, Drained.withFront]
  · have happ := drain_of_corruptMessage (drain (s.buf ++ c) s.acc).acc
      (msgDec_append_of_corruptMessage b hk)
    simp [ho, happ, Drained.withFront]

/-- One more chunk in front of a cutting. -/
theorem State.FedAs.cons {s t : State} {c b : Bytes} {rs : List Result}
    (h : (s.appendAndDrain c).FedAs t b rs) : s.FedAs t (c ++ b) (s.storedResult c :: rs) := by
  obtain ⟨hstate, hmsgs, hout⟩ := h
  have hd := drain_append (s.buf ++ c) b s.acc
  rw [appendAndDrain_buf, appendAndDrain_acc] at hmsgs hout
  refine ⟨?_, ?_, ?_⟩
  · rw [hstate, appendAndDrain_append, appendAndDrain_results, List.append_assoc]
    rfl
  · rw [List.flatMap_cons, hmsgs, ← List.append_assoc, hd]
    rfl
  · have hne : rs ≠ [] := by rintro rfl; cases hout
    rw [List.getLast?_cons_of_ne_nil hne, hout, ← List.append_assoc, hd]
    rfl

/-- OVERFLOW, once set, stays set while chunks are fed, and each is answered BufferOverflow
(R164). -/
theorem foldl_feed_of_overflow {s : State} (cs : List Bytes) (ho : s.overflow = true) :
    cs.foldl State.feed s =
      { s with results := s.results ++ List.replicate cs.length (.fed [] .bufferOverflow) } := by
  induction cs generalizing s with
  | nil => simp
  | cons c cs ih =>
    rw [List.foldl_cons, feed_of_overflow c ho, ih (s := s.report _) ho, List.length_cons,
      List.replicate_succ]
    simp [State.report]

/-- A run that ends without OVERFLOW has stored its first chunk. -/
theorem feed_eq_appendAndDrain_of_foldl {s : State} {c : Bytes} {cs : List Bytes}
    (h : ((c :: cs).foldl State.feed s).overflow = false) : s.feed c = s.appendAndDrain c := by
  have ho : (s.feed c).overflow = false := by
    by_contra ho
    rw [List.foldl_cons, foldl_feed_of_overflow cs (by simpa using ho)] at h
    exact ho h
  obtain ⟨hs, e⟩ | ⟨-, -, e⟩ | ⟨-, -, e⟩ := feed_cases s c
  · simp [e, hs] at ho
  · simp [e] at ho
  · exact e

/-- A cutting of which no chunk is rejected leaves what one SR.FEED of the whole leaves. -/
theorem foldl_feed_fedAs {s : State} {cs : List Bytes} (hne : cs ≠ [])
    (ho : (cs.foldl State.feed s).overflow = false) :
    ∃ rs, s.FedAs (cs.foldl State.feed s) cs.flatten rs := by
  induction cs generalizing s with
  | nil => exact absurd rfl hne
  | cons c cs ih =>
    have hstore := feed_eq_appendAndDrain_of_foldl ho
    rw [List.foldl_cons, hstore] at ho ⊢
    rw [List.flatten_cons]
    cases cs with
    | nil => rw [List.flatten_nil, List.append_nil]; exact ⟨_, .single s c⟩
    | cons d ds =>
      obtain ⟨rs, hrs⟩ := ih (by simp) ho
      exact ⟨_, hrs.cons⟩

/-- What a run of SR.FEEDs shows, told by the loop on the whole. -/
theorem State.FedAs.observed {s t : State} {b : Bytes} {rs : List Result} (h : s.FedAs t b rs) :
    emittedSince s t = (drain (s.buf ++ b) s.acc).msgs ∧ t.buf = (drain (s.buf ++ b) s.acc).buf ∧
      t.corrupt = (s.appendAndDrain b).corrupt ∧
      t.lastOutcome = some (drain (s.buf ++ b) s.acc).outcome := by
  obtain ⟨rfl, hmsgs, hout⟩ := h
  have hne : rs ≠ [] := by rintro rfl; cases hout
  refine ⟨(emittedSince_of_results rfl).trans hmsgs, appendAndDrain_buf s b, rfl, ?_⟩
  rw [State.lastOutcome, List.getLast?_append_of_ne_nil _ hne, hout]

/-- With BUF_MAX = none no chunk is rejected. -/
theorem foldl_feed_overflow_of_unbounded {s : State} (cs : List Bytes)
    (hmax : s.config.bufMax = none) (ho : s.overflow = false) :
    (cs.foldl State.feed s).overflow = false := by
  induction cs generalizing s with
  | nil => exact ho
  | cons c cs ih =>
    refine ih (by rw [State.feed_config, hmax]) ?_
    rw [feed_of_fits ho (by rw [hmax]; rfl), appendAndDrain_eq, ho]

/-! ### A corrupt frame at the head of BUF (R163) -/

/-- Behind a corrupt frame nothing is emitted and nothing leaves BUF, whether the chunk is stored or
rejected. -/
theorem feed_of_corrupt_head {s : State} {c : Cause} (chunk : Bytes)
    (hd : msgDec s.buf = .corruptMessage c) :
    (∃ o, (s.feed chunk).results = s.results ++ [.fed [] o]) ∧ s.buf <+: (s.feed chunk).buf := by
  obtain ⟨-, e⟩ | ⟨-, -, e⟩ | ⟨-, -, e⟩ := feed_cases s chunk
  · rw [e]; exact ⟨⟨_, rfl⟩, List.prefix_rfl⟩
  · rw [e]; exact ⟨⟨_, rfl⟩, List.prefix_rfl⟩
  · rw [e, appendAndDrain_of_corruptMessage (msgDec_append_of_corruptMessage chunk hd)]
    exact ⟨⟨_, rfl⟩, List.prefix_append _ _⟩

theorem foldl_feed_of_corrupt_head {s : State} {c : Cause} (cs : List Bytes)
    (hd : msgDec s.buf = .corruptMessage c) :
    (∃ rs, (cs.foldl State.feed s).results = s.results ++ rs ∧ rs.flatMap Result.messages = []) ∧
      s.buf <+: (cs.foldl State.feed s).buf ∧
      (s.corrupt = true → (cs.foldl State.feed s).corrupt = true) := by
  induction cs generalizing s with
  | nil => exact ⟨⟨[], (List.append_nil _).symm, rfl⟩, List.prefix_rfl, id⟩
  | cons chunk cs ih =>
    obtain ⟨⟨o, hres⟩, x, hx⟩ := feed_of_corrupt_head chunk hd
    have hd' : msgDec (s.feed chunk).buf = .corruptMessage c :=
      hx ▸ msgDec_append_of_corruptMessage x hd
    obtain ⟨⟨rs, hrs, hnone⟩, hbuf, hcor⟩ := ih hd'
    refine ⟨⟨.fed [] o :: rs, ?_, hnone⟩, List.IsPrefix.trans ⟨x, hx⟩ hbuf,
      fun hc => hcor (State.feed_keeps_corrupt chunk hc)⟩
    rw [List.foldl_cons, hrs, hres, List.append_assoc]
    rfl

/-! ### How bytes leave BUF (R165) -/

/-- An SR.FEED takes whole frames off BUF and its chunk, or rejects the chunk. -/
theorem feed_accounts (s : State) (chunk : Bytes) :
    ∃ (x : Bytes) (ms : List Message), (x = [] ∨ x = chunk) ∧
      (∀ m ∈ ms, m.payload.length < 2 ^ 32) ∧
      s.buf ++ x = (ms.map msgEnc).flatten ++ (s.feed chunk).buf := by
  obtain ⟨-, e⟩ | ⟨-, -, e⟩ | ⟨-, -, e⟩ := feed_cases s chunk
  · exact ⟨[], [], .inl rfl, by simp, by simp [e]⟩
  · exact ⟨[], [], .inl rfl, by simp, by simp [e]⟩
  · refine ⟨chunk, (drain (s.buf ++ chunk) s.acc).msgs, .inr rfl, drainLoop_msgs_valid _ _ _, ?_⟩
    rw [e, appendAndDrain_buf, drain_accounts]

/-- A pass of the loop on the frame at the head of BUF takes that frame off, or nothing. -/
theorem runFrame_accounts (s : State) :
    ∃ ms : List Message, (∀ m ∈ ms, m.payload.length < 2 ^ 32) ∧
      s.buf = (ms.map msgEnc).flatten ++ (s.runFrame (readHeader s.buf)).buf := by
  by_cases hu : s.overflow = true ∨ s.buf.length < 24
  · rw [runFrame_of_undecoded _ hu, (runIncomplete_inert s).1]
    exact ⟨[], by simp, rfl⟩
  obtain ⟨ho, hl⟩ := by simpa using hu
  have hdec := decodeBody_readHeader hl
  rw [runFrame_of_decoded _ ho hl, hdec]
  cases hd : msgDec s.buf with
  | needMoreData => exact ⟨[], by simp, rfl⟩
  | corruptMessage c => exact ⟨[], by simp, rfl⟩
  | ok m rest =>
    obtain ⟨-, -, -, -, hrest⟩ := decodeBody_eq_ok_iff.1 (hdec.trans hd)
    refine ⟨[m], by simpa using payload_lt_of_msgDec hd, ?_⟩
    have henc := msgEnc_append_of_msgDec hd
    rw [hrest, List.drop_drop] at henc
    simpa [State.noteVerdict] using henc.symm

/-! ### The status word (R166) -/

theorem getLsbD_statusWord (s : State) (k : Nat) :
    s.statusWord.getLsbD k = (decide (k = 0) && s.corrupt || decide (k = 1) && s.overflow) := by
  have h2 : (2#32).getLsbD k = decide (k = 1) := by
    rw [show 2#32 = BitVec.twoPow 32 1 from rfl, BitVec.getLsbD_twoPow]
    simp [eq_comm]
  rw [State.statusWord, BitVec.getLsbD_or]
  cases s.corrupt <;> cases s.overflow <;> simp [h2]

/-! ### The statements -/

/-- Settles O15: a verdict and its ACC do not change when bytes follow, and so a sequence that still
lacks bytes has no front part with a verdict. -/
theorem msgDecIsStableUnderMoreBytes : Obligations.MsgDecIsStableUnderMoreBytes := by
  refine ⟨fun b t rest m s a h => ?_, fun b t c s a h => ?_, fun b t s a h => ?_⟩
  · have hd := msgDec_of_exec_decoded h
    have happ := msgDec_append_of_ok t hd
    obtain ⟨rfl, -⟩ := exec_msgDec_eq_iff.1 h
    exact exec_msgDec_eq_iff.2 ⟨accAfterDec_append _ t (by simp [hd]), by rw [happ]; rfl⟩
  · obtain ⟨rfl, hans⟩ := exec_msgDec_eq_iff.1 h
    have hd := DecodeResult.answer_eq_corruptMessage_iff.1 hans
    have happ := msgDec_append_of_corruptMessage t hd
    exact exec_msgDec_eq_iff.2 ⟨accAfterDec_append _ t (by simp [hd]), by rw [happ]; rfl⟩
  · obtain ⟨-, hans⟩ := exec_msgDec_eq_iff.1 h
    have hd := DecodeResult.answer_eq_needMoreData_iff.1 hans
    exact ⟨_, exec_msgDec_eq_iff.2 ⟨rfl, by rw [msgDec_of_append_needMoreData hd]; rfl⟩⟩

/-- Settles O16: the three ways of an SR.FEED, and the stored chunk by the verdict on BUF. -/
theorem feedFollowsItsFourSteps : Obligations.FeedFollowsItsFourSteps := by
  intro s chunk
  refine ⟨fun ho => ?_, fun ho hex => ?_, fun ho hfit => ?_⟩
  · rw [exec_srFeed, feed_of_overflow chunk ho]
    rfl
  · rw [exec_srFeed, feed_of_exceeds ho (exceeds_eq_true.2 hex)]
    rfl
  · rw [exec_srFeed, feed_of_fits ho (exceeds_eq_false.2 hfit)]
    refine ⟨fun hd => ⟨_, congrArg _ (appendAndDrain_of_needMoreData hd)⟩,
      fun c hd => ⟨_, congrArg _ (appendAndDrain_of_corruptMessage hd)⟩, fun m rest hd => ?_⟩
    obtain ⟨a, t, ms, o, hrest, hall⟩ := appendAndDrain_of_ok hd
    have hmax : State.withinBufMax { s with buf := rest, acc := a } := by
      have hl := msgDec_ok_length hd
      rw [List.length_append] at hl
      exact fun n hn => le_trans (by dsimp only; omega) (hfit n hn)
    have ho' : State.overflow { s with buf := rest, acc := a } = false := ho
    exact ⟨a, t, ms, o, congrArg _ ((feed_nil ho' hmax).trans hrest), congrArg _ hall⟩

/-- Settles O17: the rejected chunk sets the latch, under which SR.FEED only answers. -/
theorem overflowLatches : Obligations.OverflowLatches := by
  refine ⟨fun s chunk n ho hmax hn => ?_, fun s => ⟨_, rfl, rfl⟩⟩
  have hfeed := feed_of_exceeds ho (exceeds_eq_true.2 ⟨n, hmax, hn⟩)
  rw [exec_srFeed, hfeed]
  refine ⟨_, rfl, rfl, rfl, fun cs => ⟨_, runFeeds_eq_foldl cs _, ?_⟩⟩
  rw [foldl_feed_of_overflow cs rfl]
  exact ⟨rfl, rfl, rfl, rfl⟩

/-- Settles O18: each cutting is observed as one SR.FEED of the whole, and the loop on whole frames
and an undecided rest is `drain_frames`. -/
theorem fragmentationDoesNotMatter : Obligations.FragmentationDoesNotMatter := by
  refine ⟨fun s t u cs ds hcs hds heq ht hu hto huo => ?_, fun s cs hmax ho => ?_,
    fun c cs ms m x hmax hcs hms hm hx hne heq => ?_⟩
  · obtain rfl := runFeeds_eq_some_iff.1 ht
    obtain rfl := runFeeds_eq_some_iff.1 hu
    obtain ⟨rs, hrs⟩ := foldl_feed_fedAs hcs hto
    obtain ⟨qs, hqs⟩ := foldl_feed_fedAs hds huo
    rw [← heq] at hqs
    obtain ⟨hm, hb, hc, ho⟩ := hrs.observed
    obtain ⟨hm', hb', hc', ho'⟩ := hqs.observed
    exact ⟨hm.trans hm'.symm, hb.trans hb'.symm, hc.trans hc'.symm, ho.trans ho'.symm⟩
  · exact ⟨_, runFeeds_eq_foldl cs s, foldl_feed_overflow_of_unbounded cs hmax ho⟩
  · obtain ⟨rs, hrs⟩ := foldl_feed_fedAs (s := State.create c) hcs
      (foldl_feed_overflow_of_unbounded cs hmax rfl)
    obtain ⟨hmsgs, hbuf, -, hout⟩ := hrs.observed
    obtain ⟨a, hd⟩ := drain_frames (State.create c).acc hms (msgDec_of_proper_front hm hx hne)
    rw [heq, State.create_buf, List.nil_append, hd] at hmsgs hbuf hout
    exact ⟨_, runFeeds_eq_foldl cs _, hmsgs, hbuf, hout⟩

/-- Settles O20: the frame stays corrupt under more bytes, and no chunk gets past it. -/
theorem corruptFrameSticks : Obligations.CorruptFrameSticks := by
  refine fun s c hd => ⟨fun chunk ho hfit => ?_, fun cs => ?_⟩
  · have hd' := msgDec_append_of_corruptMessage chunk hd
    rw [exec_srFeed, feed_of_fits ho (exceeds_eq_false.2 hfit)]
    exact ⟨hd', _, congrArg _ (appendAndDrain_of_corruptMessage hd')⟩
  · obtain ⟨⟨rs, hres, hnone⟩, hbuf, hcor⟩ := foldl_feed_of_corrupt_head cs hd
    exact ⟨_, runFeeds_eq_foldl cs s, (emittedSince_of_results hres).trans hnone, hbuf, hcor⟩

/-- Settles O21: at rest MSG.DEC of BUF gives no message, and CORRUPT tells which of the two other
verdicts it gives. -/
theorem emptyChunkChangesNothingAtRest : Obligations.EmptyChunkChangesNothingAtRest := by
  intro s hr hmax ho
  obtain ⟨-, hcor⟩ := (State.atRest_iff s).1 hr
  rw [exec_srFeed, feed_nil ho hmax]
  have hnil : msgDec (s.buf ++ []) = msgDec s.buf := by rw [List.append_nil]
  cases hd : msgDec s.buf with
  | ok m rest => exact absurd hd (hr.msgDec_ne_ok m rest)
  | needMoreData =>
    rw [appendAndDrain_of_needMoreData (hnil.trans hd), List.append_nil]
    exact ⟨_, _, rfl, fun _ => rfl, fun hc => by simp [hd, hc] at hcor⟩
  | corruptMessage c =>
    have hc := hr.corrupt_of_msgDec hd
    rw [appendAndDrain_of_corruptMessage (hnil.trans hd), List.append_nil, ← hc]
    exact ⟨_, _, rfl, fun h => by simp [h] at hc, fun _ => ⟨c, rfl, rfl⟩⟩

/-- Settles O52: SR.RESET is `clear`; of the others SR.FEED and a frame take whole frames off BUF,
and the rest leave it. -/
theorem srResetIsTheOnlyWayBack : Obligations.SrResetIsTheOnlyWayBack := by
  refine ⟨fun s => ⟨_, rfl, rfl, rfl, rfl, rfl, rfl⟩, fun i s t h hr hw => ?_⟩
  obtain ⟨hkeep, -, -⟩ := statusFlagsAreSticky i s t h
  obtain ⟨hcor, hovf⟩ := hkeep hr
  refine ⟨hcor, hovf, ?_⟩
  obtain ⟨rfl, -⟩ | ⟨chunk, rfl, rfl⟩ | ⟨hd, hi, rfl⟩ | hs := exec_cases h
  · exact absurd rfl hr
  · obtain ⟨x, ms, hx, hms, hacc⟩ := feed_accounts s chunk
    exact ⟨x, ms, hx.imp_right fun e => by rw [e], hms, hacc⟩
  · obtain ⟨ms, hms, hacc⟩ := runFrame_accounts s
    rw [hw hd hi]
    exact ⟨[], ms, .inl rfl, hms, (List.append_nil _).trans hacc⟩
  · exact ⟨[], [], .inl rfl, by simp, by simp [hs.buf]⟩

/-- Settles O23: `clear` writes these fields and no other. -/
theorem srResetClears : Obligations.SrResetClears := fun _ => rfl

/-- Settles O25: STATUS as a word, for each value of the two flags. -/
theorem statusShowsBothFlags : Obligations.StatusShowsBothFlags := by
  refine fun s => ⟨s.statusWord, rfl, ?_, ?_, fun k hk => ?_⟩
  · rw [getLsbD_statusWord]; simp
  · rw [getLsbD_statusWord]; simp
  · rw [getLsbD_statusWord]; simp [show k ≠ 0 by omega, show k ≠ 1 by omega]

/-- Settles O26: SR.BUFLEN only answers. -/
theorem buflenShowsOccupancy : Obligations.BuflenShowsOccupancy := fun _ => rfl

/-- Settles O28: every frame row is one pass of the loop, which decodes nothing in these states. -/
theorem framesNotDecoded : Obligations.FramesNotDecoded := by
  intro i h s hi
  rw [exec_of_wireHeader hi]
  refine ⟨fun ho => ?_, fun ho hl => ?_⟩
  · rw [runFrame_of_overflow h ho]
    rfl
  · rw [runFrame_of_undecoded h (.inr hl)]
    simp [State.runIncomplete, State.report, ho]

end Sys2Proof.Machine

/-! Proofs for 43_host_side.md: DISPATCH and its runs after an arrival (R191, R195), the two builders
(R192, R193), SEND (R194), and that the host's streams only grow (R217). -/

namespace Sys2Proof.Machine

/-! ### The text of a builder (R192, R193) -/

/-- A text of codes 0 to 127 has one byte a character, and one NUL after them. -/
theorem exists_textPayload {t : Text} (ht : ∀ ch ∈ t, ch < 128) :
    ∃ p, textPayload t = some p ∧ p.length = t.length + 1 ∧ p.map BitVec.toNat = t ++ [0] := by
  refine ⟨t.map (BitVec.ofNat 8) ++ [0], if_pos (by simpa using ht), by simp, ?_⟩
  have hcodes : (t.map (BitVec.ofNat 8)).map BitVec.toNat = t := by
    rw [List.map_map]
    refine (List.map_congr_left fun ch hch => ?_).trans (List.map_id t)
    exact Nat.mod_eq_of_lt ((ht ch hch).trans (by decide))
  rw [List.map_append, hcodes]
  rfl

/-- One character above 127 refuses the whole text. -/
theorem textPayload_of_nonAscii {t : Text} (ht : ∃ ch ∈ t, 128 ≤ ch) : textPayload t = none :=
  if_neg (by simpa using ht)

theorem newTextMessage_of_short {t : Text} (ht : ∀ ch ∈ t, ch < 128) (hl : t.length + 1 < 2 ^ 32)
    (c a0 a1 : U32) (s : State) :
    ∃ a p, s.newTextMessage c a0 a1 t =
        ({ s with acc := a } : State).report (.message ⟨c, a0, a1, p⟩) ∧
      p.map BitVec.toNat = t ++ [0] := by
  obtain ⟨p, hp, hlen, hcodes⟩ := exists_textPayload ht
  refine ⟨csum p, p, ?_, hcodes⟩
  rw [State.newTextMessage, hp]
  exact newMessage_of_short (hlen.trans_lt hl) s

theorem newTextMessage_of_long {t : Text} (ht : ∀ ch ∈ t, ch < 128) (hl : 2 ^ 32 ≤ t.length + 1)
    (c a0 a1 : U32) (s : State) :
    s.newTextMessage c a0 a1 t = s.report .payloadTooLong := by
  obtain ⟨p, hp, hlen, -⟩ := exists_textPayload ht
  rw [State.newTextMessage, hp]
  exact newMessage_of_long (hl.trans_eq hlen.symm) s

theorem newTextMessage_of_nonAscii {t : Text} (ht : ∃ ch ∈ t, 128 ≤ ch) (c a0 a1 : U32)
    (s : State) : s.newTextMessage c a0 a1 t = s.report .textRefused := by
  rw [State.newTextMessage, textPayload_of_nonAscii ht]

/-- An answer that holds no message adds none to the messages made. -/
theorem made_of_mem_report_drop {s : State} {q r : Result} (hq : q.made = [])
    (hr : r ∈ (s.report q).results.drop s.results.length) : r.made = [] := by
  rw [State.report_results, List.drop_left, List.mem_singleton] at hr
  rw [hr, hq]

/-! ### SEND, and MSG.ENC of what is no Message (R194; log 10) -/

theorem exec_msgEnc_of_long {m : Message} (hl : 2 ^ 32 ≤ m.payload.length) (s : State) :
    exec (.msgEnc m) s = .next (s.report .payloadTooLong) :=
  if_neg fun hw => (m.wellFormed_iff.1 hw).not_ge hl

theorem exec_send_of_exceeds {m : Message} {s : State}
    (he : exceeds s.config.maxPayload m.payload.length = true) :
    exec (.send m) s = .next (s.report .oversizedPayload) :=
  if_pos he

theorem exec_send_of_short {m : Message} {s : State}
    (he : exceeds s.config.maxPayload m.payload.length = false)
    (hl : m.payload.length < 2 ^ 32) :
    exec (.send m) s =
      .next (({ s with acc := csum m.payload, tx := s.tx ++ msgEnc m } : State).report .done) := by
  simp [exec, execSend, he, m.wellFormed_iff.2 hl]

theorem exec_send_of_long {m : Message} {s : State}
    (he : exceeds s.config.maxPayload m.payload.length = false)
    (hl : 2 ^ 32 ≤ m.payload.length) :
    exec (.send m) s = .next (s.report .payloadTooLong) := by
  have hw : m.wellFormed = false := by
    rw [← Bool.not_eq_true, m.wellFormed_iff]
    exact hl.not_gt
  simp [exec, execSend, he, hw]

/-! ### DISPATCH, once and in a run (R191, R195) -/

theorem handlerFor_of_lookup {c : Config} {command : U32} {id : Nat}
    (h : c.handlers.lookup command = some id) : handlerFor c command = .registered id := by
  rw [handlerFor, h]

theorem handlerFor_of_unregistered {c : Config} {command : U32}
    (h : ∀ e ∈ c.handlers, e.1 ≠ command) : handlerFor c command = .default := by
  have hnone : c.handlers.lookup command = none :=
    List.lookup_eq_none_iff.2 fun e he => by simpa using (h e he).symm
  rw [handlerFor, hnone]

/-- The state after a DISPATCH of each message in order: one call and one answer for each. -/
def State.dispatched (s : State) (ms : List Message) : State :=
  { s with
    calls := s.calls ++ ms.map fun m => ⟨handlerFor s.config m.command, m⟩
    results := s.results ++ ms.map fun m => dispatchResult (handlerFor s.config m.command) }

theorem exec_dispatch (m : Message) (s : State) :
    exec (.dispatch m) s = .next (s.dispatched [m]) := rfl

theorem dispatched_nil (s : State) : s.dispatched [] = s := by
  simp [State.dispatched]

theorem dispatched_cons (s : State) (m : Message) (ms : List Message) :
    s.dispatched (m :: ms) = (s.dispatched [m]).dispatched ms := by
  simp [State.dispatched]

/-- The owner's request to dispatch a message is read as DISPATCH of it. -/
theorem step_dispatchRequest {s : State} {m : Message} {rest : List Request}
    (hp : s.pending = dispatchRequest m :: rest) :
    step s = .next (State.dispatched { s with pending := rest } [m]) :=
  step_of_decode hp rfl

theorem runSteps_succ_of_step {s t : State} (h : step s = .next t) (n : Nat) :
    runSteps (n + 1) s = runSteps n t := by
  rw [runSteps, h]

/-- The queued dispatches run in order, one a step, before any later request. -/
theorem runSteps_dispatchRequests {s : State} {ms : List Message} {rest : List Request}
    (hp : s.pending = ms.map dispatchRequest ++ rest) :
    runSteps ms.length s = some (State.dispatched { s with pending := rest } ms) := by
  induction ms generalizing s with
  | nil =>
    obtain rfl : s.pending = rest := hp
    exact congrArg some (dispatched_nil s).symm
  | cons m ms ih =>
    rw [List.length_cons, runSteps_succ_of_step (step_dispatchRequest hp), ih rfl]
    exact congrArg some (dispatched_cons { s with pending := rest } m ms).symm

/-! ### What TX and the calls keep -/

/-- Two states agree on the bytes written to TX and on the handler calls made. -/
structure State.SameStreams (t s : State) : Prop where
  tx : t.tx = s.tx
  calls : t.calls = s.calls

theorem newMessage_sameStreams (s : State) (m : Message) : (s.newMessage m).SameStreams s := by
  unfold State.newMessage
  split <;> exact ⟨rfl, rfl⟩

theorem newTextMessage_sameStreams (s : State) (c a0 a1 : U32) (t : Text) :
    (s.newTextMessage c a0 a1 t).SameStreams s := by
  unfold State.newTextMessage
  split
  · exact ⟨rfl, rfl⟩
  · exact newMessage_sameStreams s _

theorem runFrame_sameStreams (s : State) (h : Header) : (s.runFrame h).SameStreams s := by
  obtain ⟨a, r, e | ⟨n, e⟩ | e⟩ := runFrame_cases s h <;> rw [e] <;> exact ⟨rfl, rfl⟩

theorem runIncomplete_sameStreams (s : State) : s.runIncomplete.SameStreams s := by
  unfold State.runIncomplete
  split <;> exact ⟨rfl, rfl⟩

theorem feed_sameStreams (s : State) (chunk : Bytes) : (s.feed chunk).SameStreams s := by
  obtain ⟨-, e⟩ | ⟨-, -, e⟩ | ⟨-, -, e⟩ := feed_cases s chunk <;> rw [e]
  · exact ⟨rfl, rfl⟩
  · exact ⟨rfl, rfl⟩
  · rw [appendAndDrain_eq]
    exact ⟨rfl, rfl⟩

/-- What an instruction can do to TX and to the calls: SEND writes one frame, DISPATCH makes one
call, and nothing else touches either. -/
theorem exec_stream_cases {i : Instr} {s t : State} (h : exec i s = .next t) :
    (∃ m, i = .send m ∧ t.tx = s.tx ++ msgEnc m ∧ t.calls = s.calls) ∨
      (∃ m, i = .dispatch m ∧ t.tx = s.tx ∧
        t.calls = s.calls ++ [⟨handlerFor s.config m.command, m⟩]) ∨
      t.SameStreams s := by
  cases i with
  | frame | cnxn | opn | okay | clse | wrte | sync =>
    cases h; exact .inr (.inr (runFrame_sameStreams s _))
  | srFeed chunk => cases h; exact .inr (.inr (feed_sameStreams s chunk))
  | srReset | hdrEnc | csum | magic | srStatus | srBuflen =>
    cases h; exact .inr (.inr ⟨rfl, rfl⟩)
  | hdrDec b =>
    simp only [exec, execHdrDec] at h
    split at h <;> cases h <;> exact .inr (.inr ⟨rfl, rfl⟩)
  | msgNew => cases h; exact .inr (.inr (newMessage_sameStreams s _))
  | msgEnc m =>
    simp only [exec, execMsgEnc] at h
    split at h <;> cases h <;> exact .inr (.inr ⟨rfl, rfl⟩)
  | msgDec b => cases (exec_msgDec b s).symm.trans h; exact .inr (.inr ⟨rfl, rfl⟩)
  | dispatch m => cases h; exact .inr (.inl ⟨m, rfl, rfl, rfl⟩)
  | buildConnect => cases h; exact .inr (.inr (newTextMessage_sameStreams s _ _ _ _))
  | buildCommand => cases h; exact .inr (.inr (newTextMessage_sameStreams s _ _ _ _))
  | send m =>
    cases he : exceeds s.config.maxPayload m.payload.length with
    | true => cases (exec_send_of_exceeds he).symm.trans h; exact .inr (.inr ⟨rfl, rfl⟩)
    | false =>
      obtain hl | hl := Nat.lt_or_ge m.payload.length (2 ^ 32)
      · cases (exec_send_of_short he hl).symm.trans h
        exact .inl ⟨m, rfl, rfl, rfl⟩
      · cases (exec_send_of_long he hl).symm.trans h
        exact .inr (.inr ⟨rfl, rfl⟩)

/-- TX and the calls before an instruction are prefixes of those after it. -/
theorem streams_prefix_of_exec {i : Instr} {s t : State} (h : exec i s = .next t) :
    s.tx <+: t.tx ∧ s.calls <+: t.calls := by
  obtain ⟨m, -, htx, hcalls⟩ | ⟨m, -, htx, hcalls⟩ | ⟨htx, hcalls⟩ := exec_stream_cases h <;>
    rw [htx, hcalls]
  · exact ⟨List.prefix_append _ _, List.prefix_rfl⟩
  · exact ⟨List.prefix_rfl, List.prefix_append _ _⟩
  · exact ⟨List.prefix_rfl, List.prefix_rfl⟩

/-! ### The statements -/

/-- Settles O33: BUILD_CONNECT is the text message of the CNXN command. -/
theorem buildConnectMakesHandshake : Obligations.BuildConnectMakesHandshake := by
  refine fun v n t s => ⟨fun ht hl => ?_, fun ht hl => ?_, fun ht u hu r hr => ?_⟩
  · obtain ⟨a, p, hnew, hp⟩ := newTextMessage_of_short ht hl cnxnRow.command v n s
    exact ⟨a, p, congrArg _ hnew, hp⟩
  · exact congrArg _ (newTextMessage_of_long ht hl cnxnRow.command v n s)
  · cases (congrArg _ (newTextMessage_of_nonAscii ht cnxnRow.command v n s)).symm.trans hu
    exact made_of_mem_report_drop rfl hr

/-- Settles O34: the NUL alone makes the payload non-empty. -/
theorem buildCommandMakesTextMessage : Obligations.BuildCommandMakesTextMessage := by
  refine fun c a0 a1 t s => ⟨fun ht hl => ?_, fun ht hl => ?_, fun ht u hu r hr => ?_⟩
  · obtain ⟨a, p, hnew, hp⟩ := newTextMessage_of_short ht hl c a0 a1 s
    exact ⟨a, p, congrArg _ hnew, hp, by rintro rfl; simp at hp⟩
  · exact congrArg _ (newTextMessage_of_long ht hl c a0 a1 s)
  · cases (congrArg _ (newTextMessage_of_nonAscii ht c a0 a1 s)).symm.trans hu
    exact made_of_mem_report_drop rfl hr

/-- Settles O42: by what an instruction can do to TX and to the calls, and what a step adds to it. -/
theorem hostStreamsOnlyGrow : Obligations.HostStreamsOnlyGrow := by
  refine ⟨fun i s t h => ?_, fun s t h => ?_⟩
  · obtain ⟨r, hres, -⟩ := exec_answersValid h
    obtain ⟨htx, hcalls⟩ := streams_prefix_of_exec h
    refine ⟨⟨r, hres⟩, htx, hcalls, fun hne => ?_, fun hne => ?_⟩
    · obtain ⟨m, hi, e, -⟩ | ⟨m, -, e, -⟩ | e := exec_stream_cases h
      · exact ⟨m, hi, e⟩
      · exact absurd e hne
      · exact absurd e.tx hne
    · obtain ⟨m, -, -, e⟩ | ⟨m, hi, -, e⟩ | e := exec_stream_cases h
      · exact absurd e hne
      · exact ⟨m, hi, e⟩
      · exact absurd e.calls hne
  · obtain ⟨-, rfl⟩ | ⟨q, rest, -, ⟨i, u, -, he, rfl⟩ | rfl⟩ := step_cases h
    · exact ⟨.inl rfl, List.prefix_rfl, List.prefix_rfl⟩
    · obtain ⟨r, hres, -⟩ := exec_answersValid he
      obtain ⟨htx, hcalls⟩ := streams_prefix_of_exec he
      rw [State.settle_results, State.settle_tx, State.settle_calls]
      exact ⟨.inr ⟨r, hres⟩, htx, hcalls⟩
    · obtain ⟨r, hres, -⟩ := runIncomplete_answersValid { s with pending := rest }
      obtain ⟨htx, hcalls⟩ := runIncomplete_sameStreams { s with pending := rest }
      rw [htx, hcalls]
      exact ⟨.inr ⟨r, hres⟩, List.prefix_rfl, List.prefix_rfl⟩

/-- Settles O46: one step for the SR.FEED, and the run of the dispatches it queued. -/
theorem arrivalDispatchesInOrder : Obligations.ArrivalDispatchesInOrder := by
  intro s chunk rest hp
  obtain ⟨ms, o, hres⟩ := State.feed_results { s with pending := rest } chunk
  obtain ⟨htx, hcalls⟩ := feed_sameStreams { s with pending := rest } chunk
  have hconfig := State.feed_config { s with pending := rest } chunk
  have hpending := State.feed_pending { s with pending := rest } chunk
  generalize ht : State.feed { s with pending := rest } chunk = t
    at hres htx hcalls hconfig hpending
  have hstep : step s = .next { t with pending := ms.map dispatchRequest ++ rest } := by
    rw [step_arrival hp, ht, scheduleDispatches_of_fed hres, hpending]
  refine ⟨t, ms, o, State.dispatched { t with pending := rest } ms,
    (exec_srFeed chunk _).trans (congrArg _ ht), hres, ?_, ?_, rfl, rfl, rfl, rfl, htx, hconfig⟩
  · rw [runSteps_succ_of_step hstep, runSteps_dispatchRequests rfl]
  · rw [State.dispatched, hcalls, hconfig]

/-- Settles O12: SEND gets past its size check to the same refusal as MSG.ENC. -/
theorem overlongMessageIsNotEncoded : Obligations.OverlongMessageIsNotEncoded := fun _ s hl =>
  ⟨exec_msgEnc_of_long hl s, fun hmax => exec_send_of_long (exceeds_eq_false.2 hmax) hl⟩

/-- Settles O31: the one call is that of the handler the command selects. -/
theorem dispatchCallsOneHandler : Obligations.DispatchCallsOneHandler := by
  refine fun m s => ⟨fun id hid => ⟨.done, ?_⟩, fun hmiss => ⟨.unknownCommand, ?_⟩⟩
  · rw [exec_dispatch, State.dispatched, List.map_singleton, List.map_singleton,
      handlerFor_of_lookup hid]
    rfl
  · rw [exec_dispatch, State.dispatched, List.map_singleton, List.map_singleton,
      handlerFor_of_unregistered hmiss]
    rfl

/-- Settles O36: the two answers of the size check that comes first. -/
theorem sendWritesWholeFrameOrNothing : Obligations.SendWritesWholeFrameOrNothing := fun m _ =>
  ⟨fun hex => exec_send_of_exceeds (exceeds_eq_true.2 hex), fun hmax hl =>
    ⟨csum m.payload, exec_send_of_short (exceeds_eq_false.2 hmax) hl⟩⟩

end Sys2Proof.Machine

/-! Proofs for 60_exceptions.md: every instruction completes with one answer (R210, R217), which
answers have the host-side codes 4 to 6 (R210, R214), and what an SR.FEED that is not rejected
leaves of its bytes (R219). -/

namespace Sys2Proof.Machine

/-! ### The host-side rows of R210 -/

/-- From `s` to `t` the answer `r` has been added, and no waiting request was touched. -/
structure State.Answers (s t : State) (r : Result) : Prop where
  results : t.results = s.results ++ [r]
  pending : t.pending = s.pending

theorem State.Answers.eq_of_results {s t : State} {q r : Result} (ha : s.Answers t q)
    (hr : t.results = s.results ++ [r]) : q = r := by
  simpa using ha.results.symm.trans hr

theorem handlerFor_eq_default_iff {c : Config} {command : U32} :
    handlerFor c command = .default ↔ ∀ e ∈ c.handlers, e.1 ≠ command := by
  refine ⟨fun hd e he heq => ?_, handlerFor_of_unregistered⟩
  cases hl : c.handlers.lookup command with
  | none => exact absurd heq.symm (by simpa using List.lookup_eq_none_iff.1 hl e he)
  | some id => cases (handlerFor_of_lookup hl).symm.trans hd

theorem dispatchResult_code (k : Handler) :
    (dispatchResult k).code = some 0 ∨ (dispatchResult k).code = some 4 := by
  cases k
  · exact .inl rfl
  · exact .inr rfl

/-- The host-side codes of R210, each with the instruction and the operands that end in it; those of
MSG.ENC and SEND with code 6 are log 10's. -/
inductive HostCode (s : State) : Instr → Nat → Prop
  | miss {m : Message} (h : ∀ e ∈ s.config.handlers, e.1 ≠ m.command) : HostCode s (.dispatch m) 4
  | oversized {m : Message} (h : ∃ n, s.config.maxPayload = some n ∧ m.payload.length > n) :
      HostCode s (.send m) 5
  | longNew {c a0 a1 : U32} {p : Bytes} (h : 2 ^ 32 ≤ p.length) : HostCode s (.msgNew c a0 a1 p) 6
  | longConnect {v n : U32} {x : Text} (hx : ∀ ch ∈ x, ch < 128) (h : 2 ^ 32 ≤ x.length + 1) :
      HostCode s (.buildConnect v n x) 6
  | longCommand {c a0 a1 : U32} {x : Text} (hx : ∀ ch ∈ x, ch < 128)
      (h : 2 ^ 32 ≤ x.length + 1) : HostCode s (.buildCommand c a0 a1 x) 6
  | longEnc {m : Message} (h : 2 ^ 32 ≤ m.payload.length) : HostCode s (.msgEnc m) 6
  | longSend {m : Message} (h : 2 ^ 32 ≤ m.payload.length)
      (hmax : ∀ n, s.config.maxPayload = some n → m.payload.length ≤ n) : HostCode s (.send m) 6

/-- An instruction in a host-side row ends with that row's code. -/
theorem HostCode.exec_answers {s : State} {i : Instr} {n : Nat} (hc : HostCode s i n) :
    ∃ t r, exec i s = .next t ∧ s.Answers t r ∧ r.code = some n := by
  cases hc with
  | miss h =>
    exact ⟨_, _, rfl, ⟨rfl, rfl⟩, by rw [handlerFor_of_unregistered h]; rfl⟩
  | oversized h =>
    exact ⟨_, _, exec_send_of_exceeds (exceeds_eq_true.2 h), ⟨rfl, rfl⟩, rfl⟩
  | longNew h => exact ⟨_, _, congrArg Host.Outcome.next (newMessage_of_long h s), ⟨rfl, rfl⟩, rfl⟩
  | longConnect hx h =>
    exact ⟨_, _, congrArg Host.Outcome.next (newTextMessage_of_long hx h _ _ _ s), ⟨rfl, rfl⟩, rfl⟩
  | longCommand hx h =>
    exact ⟨_, _, congrArg Host.Outcome.next (newTextMessage_of_long hx h _ _ _ s), ⟨rfl, rfl⟩, rfl⟩
  | longEnc h => exact ⟨_, _, exec_msgEnc_of_long h s, ⟨rfl, rfl⟩, rfl⟩
  | longSend h hmax =>
    exact ⟨_, _, exec_send_of_long (exceeds_eq_false.2 hmax) h, ⟨rfl, rfl⟩, rfl⟩

/-! ### The one answer of an instruction (R210, R217) -/

/-- A result that is none of the host side's: its code, if it has one, is below 4. -/
def Result.blockSide (r : Result) : Bool :=
  r.code.all (· < 4)

theorem Result.code_lt_of_blockSide {r : Result} {n : Nat} (hr : r.blockSide = true)
    (hn : r.code = some n) : n < 4 := by
  simpa [Result.blockSide, hn] using hr

/-- One answer has been added, and it has a host-side code only in a row of R210. -/
def State.Completes (s : State) (i : Instr) (t : State) : Prop :=
  ∃ r, s.Answers t r ∧ (r.blockSide = true ∨ ∃ n, r.code = some n ∧ HostCode s i n)

theorem State.Completes.of_blockSide {s t : State} {i : Instr}
    (h : ∃ r, s.Answers t r ∧ r.blockSide = true) : s.Completes i t := by
  obtain ⟨r, ha, hr⟩ := h
  exact ⟨r, ha, .inl hr⟩

theorem State.Completes.of_hostCode {s t : State} {i : Instr} {n : Nat} (hc : HostCode s i n)
    (ht : exec i s = .next t) : s.Completes i t := by
  obtain ⟨u, r, hu, ha, hr⟩ := hc.exec_answers
  cases hu.symm.trans ht
  exact ⟨r, ha, .inr ⟨n, hr, hc⟩⟩

theorem feed_answers (s : State) (chunk : Bytes) :
    ∃ r, s.Answers (s.feed chunk) r ∧ r.blockSide = true := by
  obtain ⟨ms, o, hres⟩ := State.feed_results s chunk
  exact ⟨_, ⟨hres, State.feed_pending s chunk⟩, by cases o <;> rfl⟩

theorem runFrame_answers (s : State) (h : Header) :
    ∃ r, s.Answers (s.runFrame h) r ∧ r.blockSide = true := by
  by_cases hu : s.overflow = true ∨ s.buf.length < 24
  · rw [runFrame_of_undecoded h hu, State.runIncomplete]
    split <;> exact ⟨_, ⟨rfl, rfl⟩, rfl⟩
  · obtain ⟨ho, hl⟩ := by simpa using hu
    rw [runFrame_of_decoded h ho hl]
    cases decodeBody h (s.buf.drop 24) <;> exact ⟨_, ⟨rfl, rfl⟩, rfl⟩

/-- A builder's text is refused, makes a message, or makes too long a payload (R192, R193). -/
theorem newTextMessage_answers (s : State) (c a0 a1 : U32) (x : Text) :
    (∃ r, s.Answers (s.newTextMessage c a0 a1 x) r ∧ r.blockSide = true) ∨
      (∀ ch ∈ x, ch < 128) ∧ 2 ^ 32 ≤ x.length + 1 := by
  by_cases hx : ∀ ch ∈ x, ch < 128
  · obtain hl | hl := Nat.lt_or_ge (x.length + 1) (2 ^ 32)
    · obtain ⟨a, p, he, -⟩ := newTextMessage_of_short hx hl c a0 a1 s
      rw [he]
      exact .inl ⟨_, ⟨rfl, rfl⟩, rfl⟩
    · exact .inr ⟨hx, hl⟩
  · rw [newTextMessage_of_nonAscii (by simpa using hx)]
    exact .inl ⟨_, ⟨rfl, rfl⟩, rfl⟩

/-- Every instruction adds one answer and leaves the waiting requests, and the answer has a
host-side code only in a row of R210. -/
theorem exec_completes {i : Instr} {s t : State} (ht : exec i s = .next t) : s.Completes i t := by
  cases i with
  | frame | cnxn | opn | okay | clse | wrte | sync =>
    cases ht; exact .of_blockSide (runFrame_answers s _)
  | srFeed chunk => cases ht; exact .of_blockSide (feed_answers s chunk)
  | srReset | hdrEnc | csum | magic | srStatus | srBuflen =>
    cases ht; exact .of_blockSide ⟨_, ⟨rfl, rfl⟩, rfl⟩
  | hdrDec b =>
    simp only [exec, execHdrDec] at ht
    split at ht <;> cases ht <;> exact .of_blockSide ⟨_, ⟨rfl, rfl⟩, rfl⟩
  | msgDec b =>
    cases (exec_msgDec b s).symm.trans ht
    exact .of_blockSide ⟨_, ⟨rfl, rfl⟩, by cases msgDec b <;> rfl⟩
  | dispatch m =>
    cases hk : handlerFor s.config m.command with
    | default => exact .of_hostCode (.miss (handlerFor_eq_default_iff.1 hk)) ht
    | registered id => cases ht; exact .of_blockSide ⟨_, ⟨rfl, rfl⟩, by rw [hk]; rfl⟩
  | msgNew c a0 a1 p =>
    obtain hl | hl := Nat.lt_or_ge p.length (2 ^ 32)
    · cases (congrArg _ (newMessage_of_short (m := ⟨c, a0, a1, p⟩) hl s)).symm.trans ht
      exact .of_blockSide ⟨_, ⟨rfl, rfl⟩, rfl⟩
    · exact .of_hostCode (.longNew hl) ht
  | msgEnc m =>
    obtain hl | hl := Nat.lt_or_ge m.payload.length (2 ^ 32)
    · cases (exec_msgEnc_of_short hl s).symm.trans ht
      exact .of_blockSide ⟨_, ⟨rfl, rfl⟩, rfl⟩
    · exact .of_hostCode (.longEnc hl) ht
  | buildConnect v n x =>
    obtain ha | ⟨hx, hl⟩ := newTextMessage_answers s cnxnRow.command v n x
    · cases ht; exact .of_blockSide ha
    · exact .of_hostCode (.longConnect hx hl) ht
  | buildCommand c a0 a1 x =>
    obtain ha | ⟨hx, hl⟩ := newTextMessage_answers s c a0 a1 x
    · cases ht; exact .of_blockSide ha
    · exact .of_hostCode (.longCommand hx hl) ht
  | send m =>
    cases he : exceeds s.config.maxPayload m.payload.length with
    | true => exact .of_hostCode (.oversized (exceeds_eq_true.1 he)) ht
    | false =>
      obtain hl | hl := Nat.lt_or_ge m.payload.length (2 ^ 32)
      · cases (exec_send_of_short he hl).symm.trans ht
        exact .of_blockSide ⟨_, ⟨rfl, rfl⟩, rfl⟩
      · exact .of_hostCode (.longSend hl (exceeds_eq_false.1 he)) ht

/-- An answer has a code of 4 or above exactly in that code's rows of R210. -/
theorem code_eq_some_iff {i : Instr} {s t : State} {r : Result} {n : Nat} (hn : 4 ≤ n)
    (ht : exec i s = .next t) (hr : t.results = s.results ++ [r]) :
    r.code = some n ↔ HostCode s i n := by
  constructor
  · intro hcode
    obtain ⟨q, ha, hq⟩ := exec_completes ht
    obtain rfl := ha.eq_of_results hr
    obtain hb | ⟨k, hk, hc⟩ := hq
    · exact absurd (Result.code_lt_of_blockSide hb hcode) hn.not_gt
    · cases hk.symm.trans hcode
      exact hc
  · intro hc
    obtain ⟨u, q, hu, ha, hcode⟩ := hc.exec_answers
    cases hu.symm.trans ht
    rwa [← ha.eq_of_results hr]

/-! ### What SR.FEED leaves of its bytes (R168, R219) -/

/-- Each frame takes at least its header's 24 bytes (R168). -/
theorem length_mul_le_flatten_msgEnc (ms : List Message) :
    24 * ms.length ≤ (ms.map msgEnc).flatten.length := by
  induction ms with
  | nil => exact Nat.zero_le _
  | cons m ms ih =>
    simp only [List.map_cons, List.flatten_cons, List.length_append, List.length_cons,
      msgEnc_length]
    omega

theorem drain_msgs_length_le (b : Bytes) (acc : U32) :
    (drain b acc).msgs.length ≤ b.length / 24 := by
  have hacc := congrArg List.length (drain_accounts b acc)
  have hle := length_mul_le_flatten_msgEnc (drain b acc).msgs
  rw [List.length_append] at hacc
  omega

/-- A frame without its last bytes waits for its header or for its payload (R26). -/
theorem phase_waits_of_needMoreData {b : Bytes} (hd : msgDec b = .needMoreData) :
    phase b = .waitHeader ∨ phase b = .waitPayload := by
  rw [phase_eq_waitHeader_iff, phase_eq_waitPayload_iff]
  exact (Nat.lt_or_ge b.length 24).imp_right fun hl => ⟨hl, hd⟩

/-- SR.FEED's outcome and CORRUPT follow from the BUF it leaves (R160, R219). -/
theorem appendAndDrain_ends (s : State) (chunk : Bytes) :
    let t := s.appendAndDrain chunk
    let o := (drain (s.buf ++ chunk) s.acc).outcome
    (o = .needMoreData ∧ (phase t.buf = .waitHeader ∨ phase t.buf = .waitPayload) ∧
        t.corrupt = s.corrupt) ∨
      (∃ c, o = .corruptMessage c ∧ msgDec t.buf = .corruptMessage c ∧
        phase t.buf = .badFrame ∧ t.corrupt = true) := by
  dsimp only
  rw [appendAndDrain_buf]
  obtain ⟨ho, hd⟩ | ⟨c, ho, hd⟩ := drain_stop (s.buf ++ chunk) s.acc
  · exact .inl ⟨ho, phase_waits_of_needMoreData hd, by simp [appendAndDrain_eq, ho]⟩
  · exact .inr ⟨c, ho, hd, (phase_eq_badFrame_iff _).2 ⟨c, hd⟩, by simp [appendAndDrain_eq, ho]⟩

/-! ### The statements -/

/-- Settles O19: the loop's frames and what it leaves are the bytes it was given, and it stops where
MSG.DEC gives no message. -/
theorem feedAccountsForEveryByte : Obligations.FeedAccountsForEveryByte := by
  intro s chunk ho hmax
  have hfeed := feed_of_fits ho (exceeds_eq_false.2 hmax)
  refine ⟨s.appendAndDrain chunk, _, _, (exec_srFeed chunk s).trans (congrArg _ hfeed),
    appendAndDrain_results s chunk, ?_, ?_, appendAndDrain_ends s chunk⟩
  · rw [appendAndDrain_buf, drain_accounts]
  · rw [← List.length_append]
    exact drain_msgs_length_le _ _

/-- Settles O32: each clause reads one code off the rows of `HostCode`. -/
theorem hostSideOutcomesHaveTheirCodes : Obligations.HostSideOutcomesHaveTheirCodes := by
  intro i s t r ht hr
  refine ⟨?_, ?_, ?_, ?_⟩
  · rw [code_eq_some_iff (by decide) ht hr]
    constructor
    · intro hc
      cases hc with
      | miss h => exact ⟨_, rfl, h⟩
    · rintro ⟨m, rfl, h⟩
      exact .miss h
  · rintro m rfl
    cases ht
    obtain rfl : dispatchResult _ = r := by simpa using hr
    exact dispatchResult_code _
  · rw [code_eq_some_iff (by decide) ht hr]
    constructor
    · intro hc
      cases hc with
      | oversized h => exact ⟨_, rfl, h⟩
    · rintro ⟨m, rfl, h⟩
      exact .oversized h
  · rw [code_eq_some_iff (by decide) ht hr]
    constructor
    · intro hc
      cases hc with
      | longNew h => exact .inl ⟨_, _, _, _, rfl, h⟩
      | longConnect hx h => exact .inr (.inl ⟨_, _, _, rfl, hx, h⟩)
      | longCommand hx h => exact .inr (.inr (.inl ⟨_, _, _, _, rfl, hx, h⟩))
      | longEnc h => exact .inr (.inr (.inr (.inl ⟨_, rfl, h⟩)))
      | longSend h hmax => exact .inr (.inr (.inr (.inr ⟨_, rfl, h, hmax⟩)))
    · rintro (⟨c, a0, a1, p, rfl, h⟩ | ⟨v, n, x, rfl, hx, h⟩ | ⟨c, a0, a1, x, rfl, hx, h⟩ |
        ⟨m, rfl, h⟩ | ⟨m, rfl, h, hmax⟩)
      · exact .longNew h
      · exact .longConnect hx h
      · exact .longCommand hx h
      · exact .longEnc h
      · exact .longSend h hmax

/-- Settles O37: no meaning faults or refuses, and each adds its one answer. -/
theorem everyInstructionCompletes : Obligations.EveryInstructionCompletes := by
  intro i s
  obtain ⟨t, ht⟩ := exec_eq_next i s
  obtain ⟨r, ⟨hres, hpend⟩, -⟩ := exec_completes ht
  exact ⟨t, r, ht, hres, hpend⟩

end Sys2Proof.Machine

/-! Proof for 92_eei_decisions.md: a text with a character above 127 is refused (D19; log 9). -/

namespace Sys2Proof.Machine

/-- Settles O35: both builders make the text message of a command, and a character above 127
refuses the text whatever the command. -/
theorem nonAsciiTextIsRefused : Obligations.NonAsciiTextIsRefused := by
  intro c a0 a1 t s ht
  exact ⟨congrArg _ (newTextMessage_of_nonAscii ht cnxnRow.command a0 a1 s),
    congrArg _ (newTextMessage_of_nonAscii ht c a0 a1 s)⟩

end Sys2Proof.Machine
